-- ==== Sys2Proof/Word.lean ====
section
/-!
DEFINITION. The word types of the block (00_scope.md R13): `u8`, `u16`/`s16` and `u32` as bit vectors.
-/

namespace Sys2Proof

/-- `u8` (R13): a byte of a frame, of a bus transaction or of TB. -/
abbrev Byte := BitVec 8

/-- `u16` and `s16` (R13): a coordinate, a size or a Packed Color.
`BitVec.toNat` reads it as `u16`, `BitVec.toInt` as `s16`. -/
abbrev Half := BitVec 16

/-- `u32` (R13): a count. -/
abbrev Count := BitVec 32

end Sys2Proof
end

