-- ==== Sys2Proof/Config.lean ====
section
/-!
DEFINITION. The numeric literals of the source as named constants (00_scope.md R10), the implementation parameters
(R11) with their constraints (R12), the answers the outside world gives, and the free values.
-/

namespace Sys2Proof

/-! ### Literals (R10, 93_implementation_defined.md I1): each one once -/

/-- Panel width in pixels, `TFT_WIDTH` (R11, R32). -/
def Config.panelWidth : Int := 320
/-- Panel height in pixels (R11, R32). -/
def Config.panelHeight : Int := 320
/-- The keyboard request opcode (R11, R91). -/
def Config.kbdReq : Byte := 0x09#8
/-- The Alt modifier key code (R11, R92). -/
def Config.keyAlt : Byte := 0xA1#8
/-- The response tag of no event (R92). -/
def Config.tagNone : Byte := 0x00#8
/-- The response tag of key-down (R92). -/
def Config.tagDown : Byte := 0x01#8
/-- The response tag of key-held (R92). -/
def Config.tagHeld : Byte := 0x02#8
/-- The response tag of key-up (R92). -/
def Config.tagUp : Byte := 0x03#8
/-- How many bytes a keyboard transaction reads (R52, R92): the tag and the key code. -/
def Config.kbdRspLength : Nat := 2
/-- The default of `BUF_CAP`, the figure of the source (R11, 92_eei_decisions.md D6). -/
def Config.bufCap : Nat := 1024
/-- The default of `PBM_SLOTS` (R11, D27). -/
def Config.pbmSlots : Nat := 16
/-- The default of `PBM_WORDS`, the panel's pixels (R11, D27). -/
def Config.pbmWords : Nat := 102400
/-- Reset-line low time in milliseconds, a minimum (R11, R163). -/
def Config.tRstHold : Nat := 64
/-- Settle delay after reset in milliseconds, a minimum (R11, R163). -/
def Config.tRstSettle : Nat := 140
/-- Settle delay after sleep-out in milliseconds, a minimum (R11, R164). -/
def Config.tSlpout : Nat := 120

/-! ### The display command opcodes (30_encoding.md R87) -/

/-- software-reset. -/
def Config.opSoftwareReset : Byte := 0x01#8
/-- sleep-out. -/
def Config.opSleepOut : Byte := 0x11#8
/-- inversion-on. -/
def Config.opInversionOn : Byte := 0x21#8
/-- display-on. -/
def Config.opDisplayOn : Byte := 0x29#8
/-- column-address-set. -/
def Config.opColumnSet : Byte := 0x2A#8
/-- page-address-set (row-set). -/
def Config.opRowSet : Byte := 0x2B#8
/-- memory-write. -/
def Config.opMemoryWrite : Byte := 0x2C#8
/-- memory-access-control. -/
def Config.opMemoryAccess : Byte := 0x36#8
/-- pixel-format. -/
def Config.opPixelFormat : Byte := 0x3A#8
/-- frame-rate-control. -/
def Config.opFrameRate : Byte := 0xB1#8
/-- display-function-control. -/
def Config.opDisplayFunction : Byte := 0xB6#8
/-- power-control-1. -/
def Config.opPower1 : Byte := 0xC0#8
/-- power-control-2. -/
def Config.opPower2 : Byte := 0xC1#8
/-- VCOM-control. -/
def Config.opVcom : Byte := 0xC5#8

/-- The fourteen opcodes the block sends (R87, R94), in the table's order. -/
def Config.opcodes : List Byte :=
  [Config.opSoftwareReset, Config.opSleepOut, Config.opInversionOn, Config.opDisplayOn, Config.opColumnSet,
    Config.opRowSet, Config.opMemoryWrite, Config.opMemoryAccess, Config.opPixelFormat, Config.opFrameRate,
    Config.opDisplayFunction, Config.opPower1, Config.opPower2, Config.opVcom]

/-! ### The data lengths of the commands that have a fixed number of data bytes (R87) -/

/-- column-address-set. -/
def Config.lenColumnSet : Nat := 4
/-- page-address-set. -/
def Config.lenRowSet : Nat := 4
/-- memory-access-control. -/
def Config.lenMemoryAccess : Nat := 1
/-- pixel-format. -/
def Config.lenPixelFormat : Nat := 1
/-- frame-rate-control. -/
def Config.lenFrameRate : Nat := 2
/-- display-function-control. -/
def Config.lenDisplayFunction : Nat := 3
/-- power-control-1. -/
def Config.lenPower1 : Nat := 2
/-- power-control-2. -/
def Config.lenPower2 : Nat := 1
/-- VCOM-control. -/
def Config.lenVcom : Nat := 4

/-! ### The Packed Color (30_encoding.md R88, 40_pixel_format.md R121, R122) -/

/-- How far `TO_PACKED` shifts red right. -/
def Config.redShift : Nat := 3
/-- How far `TO_PACKED` shifts green right. -/
def Config.greenShift : Nat := 2
/-- How far `TO_PACKED` shifts blue right. -/
def Config.blueShift : Nat := 3
/-- The mask of red's field. -/
def Config.redMask : Byte := 0x1F#8
/-- The mask of green's field. -/
def Config.greenMask : Byte := 0x3F#8
/-- The mask of blue's field. -/
def Config.blueMask : Byte := 0x1F#8
/-- The lowest bit of green's field. -/
def Config.greenOffset : Nat := 5
/-- The lowest bit of blue's field. -/
def Config.blueOffset : Nat := 11

/-! ### Implementation parameters -/

/-- The physical kind of the display bus (20_memory.md R51); no rule depends on it. -/
inductive BusKind where
  | spi
  | parallel8
deriving DecidableEq, Repr, Inhabited

/-- The values of the parameters of 00_scope.md R11 that are not fixed by the source. -/
structure ParamValues where
  /-- `BUF_CAP`, the capacity of TB in bytes. -/
  bufCap : Nat
  /-- `HAS_RST`: a hardware reset line is wired. -/
  hasRst : Bool
  /-- `KBD_ADDR`, the I2C target address of the keyboard. -/
  kbdAddr : Byte
  /-- `KEY_CTRL`, the key code of Control. -/
  keyCtrl : Byte
  /-- `INIT_C0`, data of power-control-1. -/
  initC0 : List Byte
  /-- `INIT_C1`, data of power-control-2. -/
  initC1 : List Byte
  /-- `INIT_C5`, data of VCOM-control. -/
  initC5 : List Byte
  /-- `INIT_3A`, data of pixel-format. -/
  init3A : List Byte
  /-- `INIT_B1`, data of frame-rate-control. -/
  initB1 : List Byte
  /-- `INIT_B6`, data of display-function-control. -/
  initB6 : List Byte
  /-- `INIT_36`, data of memory-access-control. -/
  init36 : List Byte
  /-- `LINE_LEN_INCLUSIVE`: a line's length counts both endpoints. -/
  lineLenInclusive : Bool
  /-- `RECT_CLIP_FAR`: a rectangle fill clips its far edge too. -/
  rectClipFar : Bool
  /-- `PBM_SLOTS`, the number of Pixel Buffer handles. -/
  pbmSlots : Nat
  /-- `PBM_WORDS`, the 16-bit words of Pixel Buffer storage. -/
  pbmWords : Nat
  /-- `DISPLAY_BUS_KIND`. -/
  displayBusKind : BusKind
deriving DecidableEq, Repr

/-- The constraints of 00_scope.md R12, in its order. -/
def ParamValues.ok (p : ParamValues) : Bool :=
  decide (2 ≤ p.bufCap)
    && (Config.keyAlt != p.keyCtrl) && (Config.keyAlt != 0#8) && (p.keyCtrl != 0#8)
    && (p.initC0.length == Config.lenPower1) && (p.initC1.length == Config.lenPower2)
    && (p.initC5.length == Config.lenVcom) && (p.init3A.length == Config.lenPixelFormat)
    && (p.initB1.length == Config.lenFrameRate) && (p.initB6.length == Config.lenDisplayFunction)
    && (p.init36.length == Config.lenMemoryAccess)
    && decide (p.kbdAddr.toNat < 0x80)
    && decide (1 ≤ p.pbmSlots) && decide (p.pbmSlots ≤ 256)

/-- A well-formed configuration: "A configuration that breaks one is ill-formed and the model has no run for it"
(R12), so only checked values are a configuration of a machine. -/
structure Params extends ParamValues where
  /-- The check of R12 passed. -/
  checked : toParamValues.ok = true
deriving DecidableEq, Repr

/-! ### What the outside world answers -/

/-- `BusErr` (R11, OPEN): the value a failed transaction gives. It is an opaque token: no rule looks inside it, it is
only passed on unchanged. DESIGN CHOICE (log 8): a numbered token, so that two failures can be compared. -/
structure BusErr where
  token : Nat
deriving DecidableEq, Repr, Inhabited

/-- What a display-side failure leaves open (60_exceptions.md R239 (b), (c)): a draw of each value. -/
structure FailDraw where
  /-- `SEL` afterwards. -/
  sel : Bool
  /-- `DC` afterwards. -/
  dc : Bool
  /-- The cache pair of the failing window frame is the new one. -/
  cacheNew : Bool
deriving DecidableEq, Repr, Inhabited

/-- The answer of the display bus to one `XFER` (R15, R59): success, or failure with its value. A failing answer also
carries the draws of R239, which nothing else fixes. -/
inductive BusAnswer where
  | ok
  | fail (e : BusErr) (d : FailDraw)
deriving DecidableEq, Repr, Inhabited

/-- The answer of the keyboard bus to one `I2C` (R15, 20_memory.md R60): two bytes, or failure with its value. -/
inductive KbdAnswer where
  | bytes (tag key : Byte)
  | fail (e : BusErr)
deriving DecidableEq, Repr, Inhabited

/-- A host operation port (30_encoding.md R81). -/
inductive Port where
  | hopD
  | hopK
deriving DecidableEq, Repr, Inhabited

/-! ### Free values: nothing in Lean can evaluate them -/

/-- The display bus's answer to its `n`-th transaction beyond the script (93_implementation_defined.md U2, U3, U8). -/
opaque Config.freeBusAnswer : Nat → BusAnswer
/-- The keyboard bus's answer to its `n`-th transaction beyond the script (U6, U8). -/
opaque Config.freeKbdAnswer : Nat → KbdAnswer
/-- The port whose sequencer makes the `n`-th move beyond the script (U11). -/
opaque Config.freeTurn : Nat → Port
/-- The byte that TB holds at an address at block reset (10_state.md R30, U1); the addresses from `BUF_CAP` on are those
of the bench's TB (log 4). -/
opaque Config.freeTbByte : Nat → Byte
/-- `HAS_RST` (U9). -/
opaque Config.hasRst : Bool
/-- `KBD_ADDR` (U9): a 7-bit value. -/
opaque Config.kbdAddr : BitVec 7
/-- Which of the 254 key codes that R12 allows `KEY_CTRL` is (U9). -/
opaque Config.keyCtrlIndex : Fin 254
/-- `INIT_C0` (U9). -/
opaque Config.initC0 : Vector Byte Config.lenPower1
/-- `INIT_C1` (U9). -/
opaque Config.initC1 : Vector Byte Config.lenPower2
/-- `INIT_C5` (U9). -/
opaque Config.initC5 : Vector Byte Config.lenVcom
/-- `INIT_3A` (U9). -/
opaque Config.init3A : Vector Byte Config.lenPixelFormat
/-- `INIT_B1` (U9). -/
opaque Config.initB1 : Vector Byte Config.lenFrameRate
/-- `INIT_B6` (U9). -/
opaque Config.initB6 : Vector Byte Config.lenDisplayFunction
/-- `INIT_36` (U9). -/
opaque Config.init36 : Vector Byte Config.lenMemoryAccess
/-- `DISPLAY_BUS_KIND` (U9). -/
opaque Config.displayBusKind : BusKind

/-- The `i`-th key code that is neither 0 nor `KEY_ALT`, in rising order: 0 is skipped, and so is `KEY_ALT`. -/
def Config.ctrlCode (i : Fin 254) : Byte :=
  let code := i.val + 1
  BitVec.ofNat 8 (if code < Config.keyAlt.toNat then code else code + 1)

/-- The parameter values of the machine after reset: R11's defaults where 92_eei_decisions.md decides one
(D6, D15, D16, D27), free values where the parameter is OPEN. -/
def Config.boardValues : ParamValues where
  bufCap := Config.bufCap
  hasRst := Config.hasRst
  kbdAddr := Config.kbdAddr.setWidth 8
  keyCtrl := Config.ctrlCode Config.keyCtrlIndex
  initC0 := Config.initC0.toList
  initC1 := Config.initC1.toList
  initC5 := Config.initC5.toList
  init3A := Config.init3A.toList
  initB1 := Config.initB1.toList
  initB6 := Config.initB6.toList
  init36 := Config.init36.toList
  lineLenInclusive := true
  rectClipFar := true
  pbmSlots := Config.pbmSlots
  pbmWords := Config.pbmWords
  displayBusKind := Config.displayBusKind

theorem Config.ctrlCode_legal (i : Fin 254) : Config.keyAlt ≠ Config.ctrlCode i ∧ Config.ctrlCode i ≠ 0#8 := by
  have hi := i.isLt
  unfold Config.ctrlCode
  constructor <;> intro h <;> have h' := congrArg BitVec.toNat h <;>
    simp only [BitVec.toNat_ofNat] at h' <;> split at h' <;> omega

/-- R12 holds of the reset configuration, whatever the free values are. -/
theorem Config.boardValues_ok : Config.boardValues.ok = true := by
  have hc := Config.ctrlCode_legal Config.keyCtrlIndex
  have ha : Config.kbdAddr.toNat % 256 < 128 := by
    have := Config.kbdAddr.isLt
    omega
  have hk : Config.keyAlt ≠ 0#8 := by decide
  simp [ParamValues.ok, Config.boardValues, Config.bufCap, Config.pbmSlots, hc.1, hc.2, ha, hk]

/-- `n` bytes that nothing fixes, those of the addresses from `a`. -/
def Config.freeBytes : Nat → Nat → List Byte
  | 0, _ => []
  | n + 1, a => Config.freeTbByte a :: Config.freeBytes n (a + 1)

/-- The configuration of the machine after reset. -/
def Config.board : Params := ⟨Config.boardValues, Config.boardValues_ok⟩

end Sys2Proof
end

