-- ==== Sys2Proof/Syntax.lean ====
section
/-!
DEFINITION. The instructions: one constructor per mnemonic of spec/opcode_table.json, grouped by its four formats
(30_encoding.md R80), with operands in frame order (R82, R87, R89 to R92).
-/

namespace Sys2Proof

/-- The format column of the opcode table (R80). -/
inductive Format where
  /-- HOSTREQ, the host request frame (R83). -/
  | hostReq
  /-- DISP_CMD, the display command frame (R86). -/
  | dispCmd
  /-- KBD_REQ, the keyboard request byte (R91). -/
  | kbdReq
  /-- KBD_RSP, the two-byte keyboard response (R92). -/
  | kbdRsp
deriving DecidableEq, Repr

/-- The instructions. Coordinates and sizes are the 16 bits of an `s16` field (R84). -/
inductive Instr where
  -- HOSTREQ: PFC
  | toPacked (r g b a : Byte)
  | makePacked (r g b : Byte)
  -- HOSTREQ: BTB; the count field of an array is its length
  | writeByte (b : Byte)
  | writeBytes (bs : List Byte)
  | writeRep16 (v : Half) (count : Count)
  | writePackedArray (cs : List Half)
  -- HOSTREQ: DPE
  | setWindow (x y w h : Half)
  | setPixel (x y c : Half)
  | drawHLine (x0 x1 y c : Half)
  | drawVLine (x y0 y1 c : Half)
  | fillRect (x y w h c : Half)
  | blit (x y : Half) (pb : Byte)
  | reset
  | init
  | size
  -- HOSTREQ: KED
  | kbdPoll
  | kbdLatch
  -- HOSTREQ: PBM
  | pbCreate (w h : Half)
  | pbSet (pb : Byte) (x y c : Half)
  | pbFill (pb : Byte) (c : Half)
  | pbGet (pb : Byte) (x y : Half)
  | pbSize (pb : Byte)
  -- DISP_CMD: the opcode's data bytes; memory-write carries its pixel stream
  | softwareReset
  | sleepOut
  | inversionOn
  | displayOn
  | columnAddressSet (first last : Half)
  | pageAddressSet (first last : Half)
  | memoryWrite (pixels : List Half)
  | memoryAccessControl (d : Byte)
  | pixelFormat (d : Byte)
  | frameRateControl (d0 d1 : Byte)
  | displayFunctionControl (d0 d1 d2 : Byte)
  | powerControl1 (d0 d1 : Byte)
  | powerControl2 (d : Byte)
  | vcomControl (d0 d1 d2 d3 : Byte)
  -- KBD_REQ
  | kbdReq
  -- KBD_RSP: byte 1, the key code; an invalid response also carries its tag
  | kbdRspNone (key : Byte)
  | kbdRspDown (key : Byte)
  | kbdRspHeld (key : Byte)
  | kbdRspUp (key : Byte)
  | kbdRspInvalid (tag key : Byte)
deriving DecidableEq, Repr

end Sys2Proof
end

