-- ==== Sys2Proof/WellFormed.lean ====
section
/-!
DEFINITION. Which instructions can be written as a frame: a count field holds 32 bits (30_encoding.md R83), a pixel
stream is not empty (42_display_engine.md R152), an invalid keyboard tag is none of the four (30_encoding.md R92).
-/

namespace Sys2Proof

/-- The checks on an instruction's operands. Every instruction not named is well formed at every operand. -/
def Instr.wf : Instr → Bool
  | .writeBytes bs => decide (bs.length < 2 ^ 32)
  | .writePackedArray cs => decide (cs.length < 2 ^ 32)
  | .memoryWrite pixels => !pixels.isEmpty
  | .kbdRspInvalid tag _ =>
    tag != Config.tagNone && tag != Config.tagDown && tag != Config.tagHeld && tag != Config.tagUp
  | _ => true

end Sys2Proof
end

