-- ==== Sys2Proof/Decode.lean ====
section
/-!
DEFINITION. Byte order (20_memory.md R53, R54), the decoder of each format (30_encoding.md R82 to R92, R96), total and
rejecting by name, and after it the encoder.
-/

namespace Sys2Proof

/-! ### Byte order: big-endian everywhere (R53, R54) -/

/-- `hi8(v)` (00_scope.md R13). -/
def hi8 (v : Half) : Byte := v.extractLsb' 8 8

/-- `lo8(v)` (R13). -/
def lo8 (v : Half) : Byte := v.extractLsb' 0 8

/-- The byte pair of a 16-bit value on the wire, high byte first (R53). -/
def halfBytes (v : Half) : List Byte := [hi8 v, lo8 v]

/-- The 16-bit value of a byte pair, high byte first (R83). -/
def half (p q : Byte) : Half := p ++ q

/-- The four bytes of a count, most significant first (R83). -/
def countBytes (n : Count) : List Byte :=
  [n.extractLsb' 24 8, n.extractLsb' 16 8, n.extractLsb' 8 8, n.extractLsb' 0 8]

/-- The count of four bytes, most significant first (R83). -/
def count32 (a b c d : Byte) : Count := a ++ b ++ c ++ d

/-- The 16-bit values of a list of bytes, pair by pair; a last odd byte is dropped (callers check the parity). -/
def halves : List Byte → List Half
  | p :: q :: rest => half p q :: halves rest
  | _ => []

/-! ### The decoders -/

/-- Why bytes are no instruction. -/
inductive DecodeError where
  /-- No byte at all. -/
  | empty
  /-- A request frame shorter than its selector's format (R93): not a request. -/
  | short (sel : Byte)
  /-- Bytes beyond the frame's end (R83 fixes the length). -/
  | long (sel : Byte)
  /-- An unassigned selector (R82, R93). -/
  | unassigned (sel : Byte)
  /-- A display opcode outside R87. -/
  | unknownOpcode (op : Byte)
  /-- A display command whose data bytes are not those R87 gives its opcode. -/
  | badData (op : Byte)
  /-- A keyboard request that is not the one byte `KBD_REQ` (R91). -/
  | badRequest
  /-- A keyboard response that is not two bytes (R92). -/
  | badResponse
deriving DecidableEq, Repr

/-- HOSTREQ (R82, R83): the instruction at the front of the bytes, and the bytes after its frame. -/
def decodeHost : List Byte → Except DecodeError (Instr × List Byte)
  | [] => .error .empty
  | sel :: ops =>
    match sel.toNat, ops with
    | 0x01, r :: g :: b :: a :: rest => .ok (.toPacked r g b a, rest)
    | 0x01, _ => .error (.short sel)
    | 0x02, r :: g :: b :: rest => .ok (.makePacked r g b, rest)
    | 0x02, _ => .error (.short sel)
    | 0x10, b :: rest => .ok (.writeByte b, rest)
    | 0x10, _ => .error (.short sel)
    | 0x11, n3 :: n2 :: n1 :: n0 :: data =>
      if data.length < (count32 n3 n2 n1 n0).toNat then .error (.short sel)
      else .ok (.writeBytes (data.take (count32 n3 n2 n1 n0).toNat), data.drop (count32 n3 n2 n1 n0).toNat)
    | 0x11, _ => .error (.short sel)
    | 0x12, v1 :: v0 :: n3 :: n2 :: n1 :: n0 :: rest => .ok (.writeRep16 (half v1 v0) (count32 n3 n2 n1 n0), rest)
    | 0x12, _ => .error (.short sel)
    | 0x13, n3 :: n2 :: n1 :: n0 :: data =>
      if data.length < 2 * (count32 n3 n2 n1 n0).toNat then .error (.short sel)
      else .ok (.writePackedArray (halves (data.take (2 * (count32 n3 n2 n1 n0).toNat))),
        data.drop (2 * (count32 n3 n2 n1 n0).toNat))
    | 0x13, _ => .error (.short sel)
    | 0x20, x1 :: x0 :: y1 :: y0 :: w1 :: w0 :: h1 :: h0 :: rest =>
      .ok (.setWindow (half x1 x0) (half y1 y0) (half w1 w0) (half h1 h0), rest)
    | 0x20, _ => .error (.short sel)
    | 0x21, x1 :: x0 :: y1 :: y0 :: c1 :: c0 :: rest => .ok (.setPixel (half x1 x0) (half y1 y0) (half c1 c0), rest)
    | 0x21, _ => .error (.short sel)
    | 0x22, a1 :: a0 :: b1 :: b0 :: y1 :: y0 :: c1 :: c0 :: rest =>
      .ok (.drawHLine (half a1 a0) (half b1 b0) (half y1 y0) (half c1 c0), rest)
    | 0x22, _ => .error (.short sel)
    | 0x23, x1 :: x0 :: a1 :: a0 :: b1 :: b0 :: c1 :: c0 :: rest =>
      .ok (.drawVLine (half x1 x0) (half a1 a0) (half b1 b0) (half c1 c0), rest)
    | 0x23, _ => .error (.short sel)
    | 0x24, x1 :: x0 :: y1 :: y0 :: w1 :: w0 :: h1 :: h0 :: c1 :: c0 :: rest =>
      .ok (.fillRect (half x1 x0) (half y1 y0) (half w1 w0) (half h1 h0) (half c1 c0), rest)
    | 0x24, _ => .error (.short sel)
    | 0x25, x1 :: x0 :: y1 :: y0 :: pb :: rest => .ok (.blit (half x1 x0) (half y1 y0) pb, rest)
    | 0x25, _ => .error (.short sel)
    | 0x26, rest => .ok (.reset, rest)
    | 0x27, rest => .ok (.init, rest)
    | 0x28, rest => .ok (.size, rest)
    | 0x30, rest => .ok (.kbdPoll, rest)
    | 0x31, rest => .ok (.kbdLatch, rest)
    | 0x40, w1 :: w0 :: h1 :: h0 :: rest => .ok (.pbCreate (half w1 w0) (half h1 h0), rest)
    | 0x40, _ => .error (.short sel)
    | 0x41, pb :: x1 :: x0 :: y1 :: y0 :: c1 :: c0 :: rest =>
      .ok (.pbSet pb (half x1 x0) (half y1 y0) (half c1 c0), rest)
    | 0x41, _ => .error (.short sel)
    | 0x42, pb :: c1 :: c0 :: rest => .ok (.pbFill pb (half c1 c0), rest)
    | 0x42, _ => .error (.short sel)
    | 0x43, pb :: x1 :: x0 :: y1 :: y0 :: rest => .ok (.pbGet pb (half x1 x0) (half y1 y0), rest)
    | 0x43, _ => .error (.short sel)
    | 0x44, pb :: rest => .ok (.pbSize pb, rest)
    | 0x44, _ => .error (.short sel)
    | _, _ => .error (.unassigned sel)

/-- The command that an opcode's first `n` data bytes make, and the bytes after them. -/
def dispData (op : Byte) (n : Nat) (data : List Byte) (make : List Byte → Option Instr) :
    Except DecodeError (Instr × List Byte) :=
  match make (data.take n) with
  | some i => .ok (i, data.drop n)
  | none => .error (.badData op)

/-- DISP_CMD (R86, R87, R96): the opcode byte and the data bytes R87 gives it; memory-write takes its pixel stream,
which runs to the end of the bytes (R90). -/
def decodeDisp : List Byte → Except DecodeError (Instr × List Byte)
  | [] => .error .empty
  | op :: data =>
    if op = Config.opSoftwareReset then .ok (.softwareReset, data)
    else if op = Config.opSleepOut then .ok (.sleepOut, data)
    else if op = Config.opInversionOn then .ok (.inversionOn, data)
    else if op = Config.opDisplayOn then .ok (.displayOn, data)
    else if op = Config.opColumnSet then
      dispData op Config.lenColumnSet data fun
        | [s1, s0, e1, e0] => some (.columnAddressSet (half s1 s0) (half e1 e0))
        | _ => none
    else if op = Config.opRowSet then
      dispData op Config.lenRowSet data fun
        | [s1, s0, e1, e0] => some (.pageAddressSet (half s1 s0) (half e1 e0))
        | _ => none
    else if op = Config.opMemoryWrite then
      if data.isEmpty || data.length % 2 == 1 then .error (.badData op)
      else .ok (.memoryWrite (halves data), [])
    else if op = Config.opMemoryAccess then
      dispData op Config.lenMemoryAccess data fun
        | [d] => some (.memoryAccessControl d)
        | _ => none
    else if op = Config.opPixelFormat then
      dispData op Config.lenPixelFormat data fun
        | [d] => some (.pixelFormat d)
        | _ => none
    else if op = Config.opFrameRate then
      dispData op Config.lenFrameRate data fun
        | [d0, d1] => some (.frameRateControl d0 d1)
        | _ => none
    else if op = Config.opDisplayFunction then
      dispData op Config.lenDisplayFunction data fun
        | [d0, d1, d2] => some (.displayFunctionControl d0 d1 d2)
        | _ => none
    else if op = Config.opPower1 then
      dispData op Config.lenPower1 data fun
        | [d0, d1] => some (.powerControl1 d0 d1)
        | _ => none
    else if op = Config.opPower2 then
      dispData op Config.lenPower2 data fun
        | [d] => some (.powerControl2 d)
        | _ => none
    else if op = Config.opVcom then
      dispData op Config.lenVcom data fun
        | [d0, d1, d2, d3] => some (.vcomControl d0 d1 d2 d3)
        | _ => none
    else .error (.unknownOpcode op)

/-- KBD_REQ (R91): the single byte `KBD_REQ`. -/
def decodeKbdReq : List Byte → Except DecodeError (Instr × List Byte)
  | [] => .error .empty
  | b :: rest => if b = Config.kbdReq then .ok (.kbdReq, rest) else .error .badRequest

/-- What a response's tag says (R92). -/
inductive KbdTag where
  | none
  | down
  | held
  | up
  | invalid
deriving DecidableEq, Repr

/-- The tag of byte 0 of a response (R92): four are named, any other is invalid. -/
def kbdTag (tag : Byte) : KbdTag :=
  if tag = Config.tagNone then .none
  else if tag = Config.tagDown then .down
  else if tag = Config.tagHeld then .held
  else if tag = Config.tagUp then .up
  else .invalid

/-- KBD_RSP (R92, R95): a tag and a key code; every pair is decodable. -/
def decodeKbdRsp : List Byte → Except DecodeError (Instr × List Byte)
  | [] => .error .empty
  | tag :: key :: rest =>
    match kbdTag tag with
    | .none => .ok (.kbdRspNone key, rest)
    | .down => .ok (.kbdRspDown key, rest)
    | .held => .ok (.kbdRspHeld key, rest)
    | .up => .ok (.kbdRspUp key, rest)
    | .invalid => .ok (.kbdRspInvalid tag key, rest)
  | _ => .error .badResponse

/-- The instruction at the front of the bytes, by format. -/
def decodeFront : Format → List Byte → Except DecodeError (Instr × List Byte)
  | .hostReq => decodeHost
  | .dispCmd => decodeDisp
  | .kbdReq => decodeKbdReq
  | .kbdRsp => decodeKbdRsp

/-- What is wrong with bytes left over after a frame of the format. -/
def trailing (f : Format) (first : Byte) : DecodeError :=
  match f with
  | .hostReq => .long first
  | .dispCmd => .badData first
  | .kbdReq => .badRequest
  | .kbdRsp => .badResponse

/-- The instruction that a whole frame is (R83: the length of a frame is fixed by its selector and count). -/
def decode (f : Format) (bytes : List Byte) : Except DecodeError Instr :=
  match decodeFront f bytes with
  | .ok (i, []) => .ok i
  | .ok (_, _ :: _) => .error (trailing f (bytes.headD 0#8))
  | .error e => .error e

/-! ### The encoder -/

/-- The format an instruction is written in. -/
def Instr.format : Instr → Format
  | .toPacked .. | .makePacked .. | .writeByte .. | .writeBytes .. | .writeRep16 .. | .writePackedArray ..
  | .setWindow .. | .setPixel .. | .drawHLine .. | .drawVLine .. | .fillRect .. | .blit .. | .reset | .init | .size
  | .kbdPoll | .kbdLatch | .pbCreate .. | .pbSet .. | .pbFill .. | .pbGet .. | .pbSize .. => .hostReq
  | .softwareReset | .sleepOut | .inversionOn | .displayOn | .columnAddressSet .. | .pageAddressSet ..
  | .memoryWrite .. | .memoryAccessControl .. | .pixelFormat .. | .frameRateControl .. | .displayFunctionControl ..
  | .powerControl1 .. | .powerControl2 .. | .vcomControl .. => .dispCmd
  | .kbdReq => .kbdReq
  | .kbdRspNone .. | .kbdRspDown .. | .kbdRspHeld .. | .kbdRspUp .. | .kbdRspInvalid .. => .kbdRsp

/-- The selector, opcode or tag: byte 0 of the frame (spec/opcode_table.json). -/
def Instr.code : Instr → Byte
  | .toPacked .. => 0x01#8
  | .makePacked .. => 0x02#8
  | .writeByte .. => 0x10#8
  | .writeBytes .. => 0x11#8
  | .writeRep16 .. => 0x12#8
  | .writePackedArray .. => 0x13#8
  | .setWindow .. => 0x20#8
  | .setPixel .. => 0x21#8
  | .drawHLine .. => 0x22#8
  | .drawVLine .. => 0x23#8
  | .fillRect .. => 0x24#8
  | .blit .. => 0x25#8
  | .reset => 0x26#8
  | .init => 0x27#8
  | .size => 0x28#8
  | .kbdPoll => 0x30#8
  | .kbdLatch => 0x31#8
  | .pbCreate .. => 0x40#8
  | .pbSet .. => 0x41#8
  | .pbFill .. => 0x42#8
  | .pbGet .. => 0x43#8
  | .pbSize .. => 0x44#8
  | .softwareReset => Config.opSoftwareReset
  | .sleepOut => Config.opSleepOut
  | .inversionOn => Config.opInversionOn
  | .displayOn => Config.opDisplayOn
  | .columnAddressSet .. => Config.opColumnSet
  | .pageAddressSet .. => Config.opRowSet
  | .memoryWrite .. => Config.opMemoryWrite
  | .memoryAccessControl .. => Config.opMemoryAccess
  | .pixelFormat .. => Config.opPixelFormat
  | .frameRateControl .. => Config.opFrameRate
  | .displayFunctionControl .. => Config.opDisplayFunction
  | .powerControl1 .. => Config.opPower1
  | .powerControl2 .. => Config.opPower2
  | .vcomControl .. => Config.opVcom
  | .kbdReq => Config.kbdReq
  | .kbdRspNone .. => Config.tagNone
  | .kbdRspDown .. => Config.tagDown
  | .kbdRspHeld .. => Config.tagHeld
  | .kbdRspUp .. => Config.tagUp
  | .kbdRspInvalid tag _ => tag

/-- The bytes after byte 0, in frame order (R82, R83, R87, R89, R90, R92). -/
def Instr.operands : Instr → List Byte
  | .toPacked r g b a => [r, g, b, a]
  | .makePacked r g b => [r, g, b]
  | .writeByte b => [b]
  | .writeBytes bs => countBytes (BitVec.ofNat 32 bs.length) ++ bs
  | .writeRep16 v count => halfBytes v ++ countBytes count
  | .writePackedArray cs => countBytes (BitVec.ofNat 32 cs.length) ++ cs.flatMap halfBytes
  | .setWindow x y w h => halfBytes x ++ halfBytes y ++ halfBytes w ++ halfBytes h
  | .setPixel x y c => halfBytes x ++ halfBytes y ++ halfBytes c
  | .drawHLine x0 x1 y c => halfBytes x0 ++ halfBytes x1 ++ halfBytes y ++ halfBytes c
  | .drawVLine x y0 y1 c => halfBytes x ++ halfBytes y0 ++ halfBytes y1 ++ halfBytes c
  | .fillRect x y w h c => halfBytes x ++ halfBytes y ++ halfBytes w ++ halfBytes h ++ halfBytes c
  | .blit x y pb => halfBytes x ++ halfBytes y ++ [pb]
  | .reset | .init | .size | .kbdPoll | .kbdLatch => []
  | .pbCreate w h => halfBytes w ++ halfBytes h
  | .pbSet pb x y c => [pb] ++ halfBytes x ++ halfBytes y ++ halfBytes c
  | .pbFill pb c => [pb] ++ halfBytes c
  | .pbGet pb x y => [pb] ++ halfBytes x ++ halfBytes y
  | .pbSize pb => [pb]
  | .softwareReset | .sleepOut | .inversionOn | .displayOn => []
  | .columnAddressSet s e | .pageAddressSet s e => halfBytes s ++ halfBytes e
  | .memoryWrite pixels => pixels.flatMap halfBytes
  | .memoryAccessControl d | .pixelFormat d | .powerControl2 d => [d]
  | .frameRateControl d0 d1 | .powerControl1 d0 d1 => [d0, d1]
  | .displayFunctionControl d0 d1 d2 => [d0, d1, d2]
  | .vcomControl d0 d1 d2 d3 => [d0, d1, d2, d3]
  | .kbdReq => []
  | .kbdRspNone key | .kbdRspDown key | .kbdRspHeld key | .kbdRspUp key | .kbdRspInvalid _ key => [key]

/-- The frame of an instruction. -/
def encode (i : Instr) : List Byte := i.code :: i.operands

/-! ### The opcode table's numbering of bits -/

/-- The low `n` bytes of `w`, least significant first: the table's bit 0 is the least significant bit of byte 0. -/
def tableBytes : Nat → Nat → List Byte
  | 0, _ => []
  | n + 1, w => BitVec.ofNat 8 w :: tableBytes n (w / 256)

/-- The word `w` of `nbits` bits laid out as bytes, then zeros up to 11 bytes, the longest frame without an array. -/
def tableFrame (nbits w : Nat) : List Byte :=
  tableBytes (nbits / 8) w ++ List.replicate (11 - nbits / 8) 0#8

/-- The format the table's word is read in: the first of the table's formats, in the table's order, whose decoder
takes it. DESIGN CHOICE (log 5): the word alone does not say its format, and the codes of the formats overlap. -/
def tableDecode (nbits w : Nat) : Option (Format × Instr) :=
  let bytes := tableFrame nbits w
  match decodeHost bytes, decodeDisp bytes, decodeKbdReq bytes, decodeKbdRsp bytes with
  | .ok (i, _), _, _, _ => some (.hostReq, i)
  | _, .ok (i, _), _, _ => some (.dispCmd, i)
  | _, _, .ok (i, _), _ => some (.kbdReq, i)
  | _, _, _, .ok (i, _) => some (.kbdRsp, i)
  | _, _, _, _ => none

/-- The instruction the decoder reads from a word numbered as spec/opcode_table.json numbers it. -/
def decodeTableWord (nbits w : Nat) : Option Instr := (tableDecode nbits w).map Prod.snd

end Sys2Proof
end

