-- ==== Sys2Proof/Machine/State.lean ====
section
/-!
DEFINITION. The state of the block as plain data (10_state.md), the reasons a step can stop, and the state after block
reset (10_state.md R35, 70_reset_and_hazards.md R260).
-/

namespace Sys2Proof.Machine

/-! ### Events, responses and memories -/

/-- The display-bus output pins (R26). -/
inductive Pin where
  | sel
  | dc
  | rst
deriving DecidableEq, Repr

/-- An event on the display-bus port or the delay port (00_scope.md R15). -/
inductive DispEvent where
  /-- `DRIVE(pin, level)`. -/
  | drive (pin : Pin) (level : Bool)
  /-- `XFER(bs)`: one display-bus write transaction. -/
  | xfer (bs : List Byte)
  /-- `WAIT(ms)`: at least `ms` milliseconds (R33). -/
  | wait (ms : Nat)
deriving DecidableEq, Repr

/-- An event on the keyboard-bus port (R15): `I2C(addr, ws, n)`. -/
inductive KbdEvent where
  | i2c (addr : Byte) (ws : List Byte) (n : Nat)
deriving DecidableEq, Repr

/-- The status of an operation (60_exceptions.md R230). -/
inductive Status where
  | ok
  | busFail
  | decodeFail
  | illegalOp
  | noSpace
deriving DecidableEq, Repr

/-- A response (30_encoding.md R85): the status, the bytes that follow it, and the bus failure value delivered beside
the frame. -/
structure Response where
  status : Status
  body : List Byte
  err : Option BusErr
deriving DecidableEq, Repr

/-- The bytes of TB, byte 0 first (R30): an array, so every byte of it has a value and equal contents are equal data. -/
abbrev Memory := List Byte

/-- A Pixel Buffer record `(PB_W, PB_H, PB_DATA)` (R29), pixel `(x, y)` at word `y * PB_W + x` (20_memory.md R56). -/
structure PixelBuffer where
  w : Half
  h : Half
  data : List Half
deriving DecidableEq, Repr

/-! ### The sequencers -/

/-- A cache pair and its new value (R23): the column pair or the row pair. -/
inductive CacheWrite where
  | col (first last : Half)
  | row (first last : Half)
deriving DecidableEq, Repr

/-- One move of a display-side operation: an event of its rule, or a state change between two events. -/
inductive Act where
  /-- `Drive(pin, level)`. -/
  | drive (pin : Pin) (level : Bool)
  /-- `Xfer([b])`, a one-byte transaction (41_bus_transport.md R132); `frame` is the cache pair of the window frame it
  belongs to, if it belongs to one. -/
  | send (b : Byte) (frame : Option CacheWrite)
  /-- `TB_FILL <- 0`, the start of `Stream` (R131). -/
  | clearFill
  /-- Fill TB with a chunk and transmit it (R131); `frame` as for `send`. -/
  | chunk (bs : List Byte) (frame : Option CacheWrite)
  /-- `Wait(ms)`. -/
  | wait (ms : Nat)
  /-- Write a cache pair (42_display_engine.md R153). -/
  | cache (c : CacheWrite)
  /-- Append the record of a new Pixel Buffer and count its words (44_pixel_buffer.md R211). -/
  | pbNew (w h : Half)
  /-- `MemWrite(PB pb, i, c)` (20_memory.md R56). -/
  | pbWrite (pb : Byte) (i : Nat) (c : Half)
  /-- `MemWrite` of every word of a Pixel Buffer (R213). -/
  | pbFillAll (pb : Byte) (c : Half)
deriving DecidableEq, Repr

/-- `SEQ_D` (R21): `IDLE`, or `BUSY(sel, k)` with the moves still to make and the reply if they all succeed. -/
inductive SeqD where
  | idle
  | busy (sel : Byte) (k : Nat) (rest : List Act) (reply : Response)
deriving DecidableEq, Repr

/-- `SEQ_K` (R21): `IDLE`, or `BUSY(sel, k)` with whether the keyboard poll is still to come, and the reply. -/
inductive SeqK where
  | idle
  | busy (sel : Byte) (k : Nat) (poll : Bool) (reply : Response)
deriving DecidableEq, Repr

/-- Where bytes to decode stand: a host port (30_encoding.md R81), or one of the block's inner formats (R86, R91, R92),
whose rows can be run alone (DESIGN CHOICE, log 4). -/
inductive Channel where
  | hopD
  | hopK
  | dispCmd
  | kbdReq
  | kbdRsp
deriving DecidableEq, Repr

/-- A request the environment has still to submit. -/
structure Request where
  chan : Channel
  bytes : List Byte
deriving DecidableEq, Repr

/-- How far one step runs (DESIGN CHOICE, log 1): a whole operation, or one move of one port. -/
inductive Grain where
  | whole
  | event
deriving DecidableEq, Repr

/-- A stand-in beside the block, on which a row of an inner format is run alone (DESIGN CHOICE, log 4): what the display
commands and the keyboard rows use, and nothing of the block's own, whose opcodes come from host operations only
(30_encoding.md R94) and whose latches `KBD_POLL` alone writes (R28). -/
structure Bench where
  /-- Its select line, active low. -/
  sel : Bool
  /-- Its command-mode / data-mode line. -/
  dc : Bool
  /-- Its transfer buffer. -/
  tb : Memory
  /-- The fill of its transfer buffer. -/
  tbFill : Nat
  /-- Its display-side trace, oldest first. -/
  traceD : List DispEvent
  /-- Its Alt latch. -/
  altDown : Bool
  /-- Its Control latch. -/
  ctrlDown : Bool
  /-- Its keyboard-side trace, oldest first. -/
  traceK : List KbdEvent
deriving DecidableEq, Repr

/-! ### The state -/

structure State where
  /-- The implementation parameters (00_scope.md R11). No step writes them. -/
  cfg : Params
  /-- `SEQ_D` (R21). -/
  seqD : SeqD
  /-- `SEQ_K` (R21). -/
  seqK : SeqK
  /-- `COL_START` (R23). -/
  colStart : Half
  /-- `COL_END` (R23), inclusive (R24). -/
  colEnd : Half
  /-- `ROW_START` (R23). -/
  rowStart : Half
  /-- `ROW_END` (R23), inclusive (R24). -/
  rowEnd : Half
  /-- `SEL` (R26), active low. -/
  sel : Bool
  /-- `DC` (R26): false is command mode, true is data mode. -/
  dc : Bool
  /-- `RST` (R26), active low. Where `HAS_RST` is false no rule drives it. -/
  rst : Bool
  /-- `ALT_DOWN` (R27). -/
  altDown : Bool
  /-- `CTRL_DOWN` (R27). -/
  ctrlDown : Bool
  /-- `PBM_NEXT` (R29). -/
  pbmNext : Nat
  /-- `PBM_USED` (R29). -/
  pbmUsed : Nat
  /-- `PB[h]` (R29), handle 0 first. -/
  pbs : List PixelBuffer
  /-- `TB` (R30): `BUF_CAP` bytes (`State.Inv`). -/
  tb : Memory
  /-- `TB_FILL` (R30). -/
  tbFill : Nat
  /-- The model's own: the port whose request runs (log 3). -/
  port : Port
  /-- The model's own: how far a step runs (log 1). -/
  grain : Grain
  /-- The model's own: the requests still to be submitted, in order (log 3). -/
  pending : List Request
  /-- The model's own: whose move is next with grain `event` (log 2), then a free value. -/
  turnScript : List Port
  /-- The model's own: how many turns were taken. -/
  turnCount : Nat
  /-- The model's own: the display bus's next answers (log 6), then a free value. -/
  busScript : List BusAnswer
  /-- The model's own: how many display-bus transactions were made. -/
  busCount : Nat
  /-- The model's own: the keyboard bus's next answers (log 7), then a free value. -/
  kbdScript : List KbdAnswer
  /-- The model's own: how many keyboard-bus transactions were made. -/
  kbdCount : Nat
  /-- The trace of the display-bus port and the delay port (20_memory.md R63), oldest first. -/
  traceD : List DispEvent
  /-- The trace of the keyboard-bus port (R63), oldest first. -/
  traceK : List KbdEvent
  /-- The responses HOP_D gave (30_encoding.md R85), oldest first. -/
  rspD : List Response
  /-- The responses HOP_K gave, oldest first. -/
  rspK : List Response
  /-- The model's own: where rows of the inner formats are run alone (log 4). -/
  bench : Bench
  /-- The model's own: the outcomes of inner rows run alone (log 4), oldest first. -/
  innerOut : List Response
deriving DecidableEq, Repr

/-! ### The reasons to stop -/

/-- The machine is stuck. -/
inductive Fault where
  /-- Raised by fetching a request frame shorter than its selector's format: "not a request: the port does not accept
  it and the model has no step for it" (30_encoding.md R93, 93_implementation_defined.md U13). Safe. -/
  | shortFrame
  /-- Raised by fetching a request frame with bytes beyond its end: not a well-formed frame (60_exceptions.md R250 (b),
  92_eei_decisions.md D32, log 9). Safe. -/
  | overlongFrame
deriving DecidableEq, Repr

/-- The model gives no meaning. -/
inductive Refusal where
  /-- Raised by an arm of `exec` whose instruction has no meaning yet. Safe. -/
  | notModelled (mnemonic : String)
  /-- Raised by a host operation offered to a port that is `BUSY`: "a request offered while the port is `BUSY` is not
  accepted, and the model has no step that accepts it" (60_exceptions.md R250 (a), U12). Safe. -/
  | portBusy
  /-- Raised by fetching an inner row whose bytes are no display command of R87, no keyboard request (R91) or no
  two-byte response (R92): the block never makes one (R94, log 4). Safe. -/
  | badInnerFrame
deriving DecidableEq, Repr

/-! ### Reset -/

/-- The state after block reset (R35, R260). The parameters are R11's (log 11), the bytes of TB are free values (U1,
log 10), and the fields that are the model's own start empty (logs 1 to 7, 13). -/
def State.reset : State where
  cfg := Config.board
  seqD := .idle
  seqK := .idle
  colStart := 0#16
  colEnd := 0#16
  rowStart := 0#16
  rowEnd := 0#16
  sel := true
  dc := true
  rst := true
  altDown := false
  ctrlDown := false
  pbmNext := 0
  pbmUsed := 0
  pbs := []
  tb := Config.freeBytes Config.bufCap 0
  tbFill := 0
  port := .hopD
  grain := .whole
  pending := []
  turnScript := []
  turnCount := 0
  busScript := []
  busCount := 0
  kbdScript := []
  kbdCount := 0
  traceD := []
  traceK := []
  rspD := []
  rspK := []
  bench := ⟨true, true, Config.freeBytes Config.bufCap Config.bufCap, 0, [], false, false, []⟩
  innerOut := []

end Sys2Proof.Machine
end

