-- ==== Sys2Proof/Machine/Flags.lean ====
section
/-!
DEFINITION. The block has no condition codes, status register or sticky flags (10_state.md R22): the only condition an
operation sets is the status of its own response. Its codes (60_exceptions.md R230), the response frame
(30_encoding.md R85) and the latch byte (43_keyboard_decoder.md R194).
-/

namespace Sys2Proof.Machine

/-- The status code, byte 0 of the response (R230). -/
def Status.code : Status → Byte
  | .ok => 0x00#8
  | .busFail => 0x01#8
  | .decodeFail => 0x02#8
  | .illegalOp => 0x03#8
  | .noSpace => 0x04#8

/-- HOSTRSP, the response frame (R85); the bus failure value stands beside it, in `err`. -/
def Response.frame (r : Response) : List Byte := r.status.code :: r.body

/-- `return (results)` (00_scope.md R16). -/
def Response.done (results : List Byte) : Response := ⟨.ok, results, none⟩

/-- `raise BusFail(e)`: no further bytes, the failure value unchanged (R16, R85, R231, R232). -/
def Response.busFailed (e : BusErr) : Response := ⟨.busFail, [], some e⟩

/-- `raise DecodeFail(t, k)`: the two bytes received (R16, R85, R233). -/
def Response.decodeFailed (tag key : Byte) : Response := ⟨.decodeFail, [tag, key], none⟩

/-- `raise IllegalOp(sel)`: the selector (R16, R85, R234). -/
def Response.illegal (sel : Byte) : Response := ⟨.illegalOp, [sel], none⟩

/-- `raise NoSpace()`: no bytes (R16, R85, R235). -/
def Response.full : Response := ⟨.noSpace, [], none⟩

/-- The key code a poll returns: its result byte, and 0 on an error (43_keyboard_decoder.md R191, 60_exceptions.md
R240), where the frame itself carries no code. -/
def Response.keyCode (r : Response) : Byte :=
  match r.status with
  | .ok => r.body.headD 0#8
  | _ => 0#8

/-- The result of `KBD_LATCH` (R85, R194): bit 0 is Alt, bit 1 is Control, the rest 0. -/
def latchByte (alt ctrl : Bool) : Byte :=
  (BitVec.ofBool alt).setWidth 8 ||| ((BitVec.ofBool ctrl).setWidth 8 <<< 1)

end Sys2Proof.Machine
end

