-- ==== Sys2Proof/Machine/Operands.lean ====
section
/-!
DEFINITION. Operand forms (30_encoding.md R84): a field is used as an exact integer, signed for coordinates and sizes
of the DPE, unsigned for the sizes of the PBM, counts and colours; and the arithmetic of 00_scope.md R13.
-/

namespace Sys2Proof.Machine

/-- An `s16` field as an exact integer (R84). -/
def s16 (v : Half) : Int := v.toInt

/-- A `u16` field as an exact integer (R84). -/
def u16 (v : Half) : Nat := v.toNat

/-- A `u32` field as an exact integer (R84). -/
def u32 (n : Count) : Nat := n.toNat

/-- `trunc_16(v)` (R13). -/
def trunc16 (v : Int) : Half := BitVec.ofInt 16 v

/-- `clamp(v, lo, hi) = min(max(v, lo), hi)` (R13). -/
def clamp (v lo hi : Int) : Int := min (max v lo) hi

/-- `repeat([hi8(v), lo8(v)], n)` (00_scope.md R14, R134). -/
def repeatHalf (v : Half) (n : Nat) : List Byte := (List.replicate n (halfBytes v)).flatten

/-- The big-endian byte pairs of 16-bit values, in order (R135). -/
def pairBytes (cs : List Half) : List Byte := cs.flatMap halfBytes

end Sys2Proof.Machine
end

