-- ==== Sys2Proof/Machine/Ops.lean ====
section
/-!
DEFINITION. The named operations over memory, pins, buses, cache, latches and responses, and the two sequencers
(10_state.md R21) that run an operation move by move. The block has no traps (60_exceptions.md R241): an error ends
the operation with a status in its response, and `transmit`, `keyInvalid`, `pollKeyboard` and `hostOp` are where the
errors of R230 are raised.
-/

namespace Sys2Proof.Machine

/-! ### TB as memory (R30) -/

/-- The byte at an address: none at an address that TB does not have. -/
def Memory.read (m : Memory) (a : Nat) : Option Byte := m[a]?

/-- Write bytes from byte 0 on; every other byte keeps its value. -/
def Memory.overlay (m : Memory) (bs : List Byte) : Memory := bs ++ m.drop bs.length

/-- The bytes `TB[0..n)`. -/
def Memory.front (m : Memory) (n : Nat) : List Byte := m.take n

/-- The form of a TB of `cap` bytes (R30). -/
abbrev Memory.wf (cap : Nat) (m : Memory) : Prop := m.length = cap

/-! ### Pins, bus and cache -/

/-- `Drive(pin, level)` (00_scope.md R15, R26): recorded even when the level does not change. -/
def driveOp (pin : Pin) (level : Bool) (s : State) : State :=
  match pin with
  | .sel => { s with sel := level, traceD := s.traceD ++ [.drive pin level] }
  | .dc => { s with dc := level, traceD := s.traceD ++ [.drive pin level] }
  | .rst => { s with rst := level, traceD := s.traceD ++ [.drive pin level] }

/-- `Wait(ms)` (R15, R33): recorded; no time is kept. -/
def waitOp (ms : Nat) (s : State) : State := { s with traceD := s.traceD ++ [.wait ms] }

/-- Write a cache pair (R23). -/
def writeCache (c : CacheWrite) (s : State) : State :=
  match c with
  | .col first last => { s with colStart := first, colEnd := last }
  | .row first last => { s with rowStart := first, rowEnd := last }

/-- The display bus's answer to the next transaction: the script's, else a free value (R15, U8, log 6). -/
def State.busAnswer (s : State) : BusAnswer :=
  match s.busScript with
  | a :: _ => a
  | [] => Config.freeBusAnswer s.busCount

/-- The state after a display-side `BUS_FAIL` (60_exceptions.md R239 (b), (c)): `SEL` and `DC` are drawn, and the cache
pair of the failing window frame is drawn between old and new. -/
def drawAfterFail (frame : Option CacheWrite) (d : FailDraw) (s : State) : State :=
  let s := { s with sel := d.sel, dc := d.dc }
  match frame with
  | some c => if d.cacheNew then writeCache c s else s
  | none => s

/-- `Xfer(bs)` (R15, R59): recorded, then it succeeds or fails. Afterwards `TB_FILL = 0` (R131, R132, R239 (d)). A
failure is raised with the bus's value unchanged (R136, R231). -/
def transmit (bs : List Byte) (frame : Option CacheWrite) (s : State) : State × Option Response :=
  let done := { s with
    traceD := s.traceD ++ [.xfer bs], tbFill := 0, busScript := s.busScript.tail, busCount := s.busCount + 1 }
  match s.busAnswer with
  | .ok => (done, none)
  | .fail e d => (drawAfterFail frame d done, some (Response.busFailed e))

/-- Fill TB with a chunk from byte 0, where `TB_FILL = 0` (R131). -/
def stage (bs : List Byte) (s : State) : State :=
  { s with tb := Memory.overlay s.tb bs, tbFill := bs.length }

/-- Transmit `TB[0..TB_FILL)` (R131). -/
def flush (frame : Option CacheWrite) (s : State) : State × Option Response :=
  transmit (Memory.front s.tb s.tbFill) frame s

/-! ### Pixel buffer memory (R29, R56) -/

/-- The record of a handle: none where `pb >= PBM_NEXT` (44_pixel_buffer.md R210). -/
def State.pixelBuffer (s : State) (pb : Byte) : Option PixelBuffer :=
  if pb.toNat < s.pbmNext then s.pbs[pb.toNat]? else none

/-- `PB_W[h] * PB_H[h]`, the number of words (R29). -/
def PixelBuffer.words (b : PixelBuffer) : Nat := u16 b.w * u16 b.h

/-- `MemRead(PB h, i)` (R56): every caller has checked the index. -/
def PixelBuffer.word (b : PixelBuffer) (i : Nat) : Half := b.data.getD i 0#16

/-- The word of a Pixel Buffer at an index, if there is one. -/
def State.pbWord (s : State) (h i : Nat) : Option Half := s.pbs[h]?.bind (fun b => b.data[i]?)

/-- The word index of pixel `(x, y)`, if it lies inside the buffer (R56, R212, R214). -/
def PixelBuffer.index? (b : PixelBuffer) (x y : Int) : Option Nat :=
  if x < 0 ∨ u16 b.w ≤ x ∨ y < 0 ∨ u16 b.h ≤ y then none else some (y.toNat * u16 b.w + x.toNat)

/-- A new record of zeros (R211): it takes the next handle and counts its words. -/
def pbNewOp (w h : Half) (s : State) : State :=
  { s with
    pbs := s.pbs ++ [⟨w, h, List.replicate (u16 w * u16 h) 0#16⟩]
    pbmNext := s.pbmNext + 1
    pbmUsed := s.pbmUsed + u16 w * u16 h }

/-- `MemWrite(PB pb, i, c)` (R56). -/
def pbWriteOp (pb : Byte) (i : Nat) (c : Half) (s : State) : State :=
  { s with pbs := s.pbs.modify pb.toNat (fun b => { b with data := b.data.set i c }) }

/-- `MemWrite` of every word (R213). -/
def pbFillOp (pb : Byte) (c : Half) (s : State) : State :=
  { s with pbs := s.pbs.modify pb.toNat (fun b => { b with data := b.data.map (fun _ => c) }) }

/-! ### Keyboard (43_keyboard_decoder.md R191, R192) -/

/-- Set the latch of a modifier key; any other key changes nothing. -/
def setLatch (level : Bool) (key : Byte) (s : State) : State :=
  if key = Config.keyAlt then { s with altDown := level }
  else if key = s.cfg.keyCtrl then { s with ctrlDown := level }
  else s

/-- The key is Alt or Control. -/
def State.isModifier (s : State) (key : Byte) : Bool := key == Config.keyAlt || key == s.cfg.keyCtrl

/-- Tag 0: no event, whatever the key code (R191, 92_eei_decisions.md D24). -/
def keyNone (_key : Byte) (s : State) : State × Response := (s, Response.done [0#8])

/-- Tag 1, key-down: a modifier sets its latch and returns 0, any other code is returned verbatim. -/
def keyDown (key : Byte) (s : State) : State × Response :=
  if s.isModifier key then (setLatch true key s, Response.done [0#8]) else (s, Response.done [key])

/-- Tag 2, key-held: a modifier's latch is set again; nothing is reported. -/
def keyHeld (key : Byte) (s : State) : State × Response := (setLatch true key s, Response.done [0#8])

/-- Tag 3, key-up: a modifier's latch is cleared; nothing is reported. -/
def keyUp (key : Byte) (s : State) : State × Response := (setLatch false key s, Response.done [0#8])

/-- Tag 0x04 to 0xFF: a decode error; the latches do not change (R191, R233, R240). -/
def keyInvalid (tag key : Byte) (s : State) : State × Response := (s, Response.decodeFailed tag key)

/-- The classification of a response (R191, R192). -/
def classify (tag key : Byte) (s : State) : State × Response :=
  match kbdTag tag with
  | .none => keyNone key s
  | .down => keyDown key s
  | .held => keyHeld key s
  | .up => keyUp key s
  | .invalid => keyInvalid tag key s

/-- The keyboard bus's answer to the next transaction: the script's, else a free value (20_memory.md R60, log 7). -/
def State.kbdAnswer (s : State) : KbdAnswer :=
  match s.kbdScript with
  | a :: _ => a
  | [] => Config.freeKbdAnswer s.kbdCount

/-- The transaction `I2C(KBD_ADDR, [KBD_REQ], 2)` (R52, R91), recorded, with its answer. -/
def kbdTransaction (s : State) : State × KbdAnswer :=
  ({ s with
      traceK := s.traceK ++ [.i2c s.cfg.kbdAddr [Config.kbdReq] Config.kbdRspLength]
      kbdScript := s.kbdScript.tail
      kbdCount := s.kbdCount + 1 }, s.kbdAnswer)

/-- The poll of R191: one transaction, then the classification; a failure changes no latch (R232, R240). -/
def pollKeyboard (s : State) : State × Response :=
  match kbdTransaction s with
  | (s, .fail e) => (s, Response.busFailed e)
  | (s, .bytes tag key) => classify tag key s

/-! ### The sequencer of HOP_D (R21) -/

/-- Make one move. A response says that the operation has failed and what it replies (R237). -/
def perform (a : Act) (s : State) : State × Option Response :=
  match a with
  | .drive pin level => (driveOp pin level s, none)
  | .send b frame => transmit [b] frame s
  | .clearFill => ({ s with tbFill := 0 }, none)
  | .chunk bs frame => flush frame (stage bs s)
  | .wait ms => (waitOp ms s, none)
  | .cache c => (writeCache c s, none)
  | .pbNew w h => (pbNewOp w h s, none)
  | .pbWrite pb i c => (pbWriteOp pb i c s, none)
  | .pbFillAll pb c => (pbFillOp pb c s, none)

/-- How many events a move records (R21: each event increments `k`). -/
def Act.events : Act → Nat
  | .drive .. | .send .. | .chunk .. | .wait .. => 1
  | .clearFill | .cache .. | .pbNew .. | .pbWrite .. | .pbFillAll .. => 0

/-- The response: it is delivered, and the port is `IDLE` (R21). -/
def respondD (r : Response) (s : State) : State := { s with seqD := .idle, rspD := s.rspD ++ [r] }

/-- One move of a busy HOP_D: the next move of its operation, or the response when none is left. After a failing move
only the response is left (R237). -/
def advanceD (s : State) : State :=
  match s.seqD with
  | .idle => s
  | .busy _ _ [] reply => respondD reply s
  | .busy sel k (a :: rest) reply =>
    match perform a s with
    | (s, none) => { s with seqD := .busy sel (k + a.events) rest reply }
    | (s, some r) => { s with seqD := .busy sel (k + a.events) [] r }

/-- `n` moves of HOP_D. -/
def advancesD : Nat → State → State
  | 0, s => s
  | n + 1, s => advancesD n (advanceD s)

/-- Run HOP_D's operation to its response. -/
def finishD (s : State) : State :=
  match s.seqD with
  | .idle => s
  | .busy _ _ rest _ => advancesD (rest.length + 1) s

/-! ### The sequencer of HOP_K (R21) -/

/-- The response on HOP_K. -/
def respondK (r : Response) (s : State) : State := { s with seqK := .idle, rspK := s.rspK ++ [r] }

/-- One move of a busy HOP_K: its poll if it is still to come, else the response. -/
def advanceK (s : State) : State :=
  match s.seqK with
  | .idle => s
  | .busy _ _ false reply => respondK reply s
  | .busy sel k true _ =>
    match pollKeyboard s with
    | (s, r) => { s with seqK := .busy sel (k + 1) false r }

/-- Run HOP_K's operation to its response. -/
def finishK (s : State) : State :=
  match s.seqK with
  | .idle => s
  | .busy _ _ false _ => advanceK s
  | .busy _ _ true _ => advanceK (advanceK s)

/-! ### Host operations -/

/-- What an accepted request does: the moves of a display-side operation, or the poll of a keyboard-side one, and the
reply if nothing fails. -/
structure Plan where
  acts : List Act
  poll : Bool
  reply : Response
deriving DecidableEq, Repr

/-- A reply without any event or state change: `return`, a geometric no-op (R17, R236), or an error raised by a check
(R234, R235). -/
def Plan.answer (r : Response) : Plan := ⟨[], false, r⟩

/-- A geometric no-op (R17, R236). -/
def Plan.noOp : Plan := Plan.answer (Response.done [])

/-- Moves, then `return (results)`. -/
def Plan.run (acts : List Act) (results : List Byte) : Plan := ⟨acts, false, Response.done results⟩

/-- The port of the request is busy. -/
def State.portIsBusy (s : State) : Bool :=
  match s.port with
  | .hopD => match s.seqD with
    | .idle => false
    | .busy .. => true
  | .hopK => match s.seqK with
    | .idle => false
    | .busy .. => true

/-- Acceptance sets `BUSY(sel, 0)` (R21). -/
def accept (sel : Byte) (plan : Plan) (s : State) : State :=
  match s.port with
  | .hopD => { s with seqD := .busy sel 0 plan.acts plan.reply }
  | .hopK => { s with seqK := .busy sel 0 plan.poll plan.reply }

/-- Run the operation of the request's port to its response. -/
def finish (s : State) : State :=
  match s.port with
  | .hopD => finishD s
  | .hopK => finishK s

/-- Accept an operation and run it: to its response, or with grain `event` no further than acceptance (log 1). A busy
port accepts nothing (R250 (a)). -/
def runHost (sel : Byte) (plan : Plan) (s : State) : Host.Outcome State Fault Refusal :=
  if s.portIsBusy then .refused .portBusy
  else match s.grain with
    | .whole => .next (finish (accept sel plan s))
    | .event => .next (accept sel plan s)

/-- HOP_D accepts the selectors of the BTB, DPE and PBM (30_encoding.md R81). -/
def onD : Port → Bool
  | .hopD => true
  | .hopK => false

/-- HOP_K accepts the selectors of the KED (R81). -/
def onK : Port → Bool
  | .hopD => false
  | .hopK => true

/-- Both ports accept the selectors of the PFC (R81). -/
def onBoth : Port → Bool
  | .hopD => true
  | .hopK => true

/-- A host operation: on a port that does not accept its selector it completes with `ILLEGAL_OP` (R81, R93). -/
def hostOp (sel : Byte) (accepts : Port → Bool) (plan : State → Plan) (s : State) :
    Host.Outcome State Fault Refusal :=
  runHost sel (if accepts s.port then plan s else Plan.answer (Response.illegal sel)) s

/-! ### Inner rows run alone (log 4) -/

/-- Make moves until one fails. -/
def performAll : List Act → State → State × Option Response
  | [], s => (s, none)
  | a :: rest, s =>
    match perform a s with
    | (s, none) => performAll rest s
    | (s, some r) => (s, some r)

/-- The machine with the bench in place of the block's pins, TB, latches and traces. -/
def State.onBench (s : State) : State :=
  { s with
    sel := s.bench.sel, dc := s.bench.dc, tb := s.bench.tb, tbFill := s.bench.tbFill, traceD := s.bench.traceD
    altDown := s.bench.altDown, ctrlDown := s.bench.ctrlDown, traceK := s.bench.traceK }

/-- What a row run on the bench leaves: the bench, the bus answers it used, and the requests still pending. -/
def State.benchAfter (s t : State) : State :=
  { s with
    bench := ⟨t.sel, t.dc, t.tb, t.tbFill, t.traceD, t.altDown, t.ctrlDown, t.traceK⟩
    busScript := t.busScript, busCount := t.busCount, kbdScript := t.kbdScript, kbdCount := t.kbdCount
    pending := t.pending }

/-- The outcome of an inner row. -/
def State.innerAnswer (s : State) (r : Response) : State := { s with innerOut := s.innerOut ++ [r] }

/-- A row of an inner format run alone on the bench: the block emits nothing, drives no pin (30_encoding.md R94,
10_state.md R26) and writes no latch (R28), and the outcome goes to `innerOut`. -/
def runInner (row : State → State × Response) (s : State) : Host.Outcome State Fault Refusal :=
  match row s.onBench with
  | (t, r) => .next ((s.benchAfter t).innerAnswer r)

/-- A display command's moves as a row. -/
def commandRow (acts : List Act) (s : State) : State × Response :=
  match performAll acts s with
  | (t, r) => (t, r.getD (Response.done []))

/-- A display command run alone. -/
def innerD (acts : List Act) (s : State) : Host.Outcome State Fault Refusal := runInner (commandRow acts) s

end Sys2Proof.Machine
end

