-- ==== Sys2Proof/Machine/Sequence.lean ====
section
/-!
DEFINITION. The display side's procedures as lists of moves: the chunking of the BTB (41_bus_transport.md R131), the
command frame, the pixel stream and the window cache of the DPE (42_display_engine.md R150, R152, R153).
-/

namespace Sys2Proof.Machine

/-- The loop of `Stream` (R131): `pending` is what TB holds so far, last byte first, and `fill` is `TB_FILL`. A chunk is
flushed each time TB holds `cap` bytes, and the non-empty remainder at the end. -/
def chunksFrom (cap : Nat) : List Byte → List Byte → Nat → List (List Byte)
  | [], pending, _ => if pending.isEmpty then [] else [pending.reverse]
  | b :: bs, pending, fill =>
    if fill + 1 = cap then (b :: pending).reverse :: chunksFrom cap bs [] 0
    else chunksFrom cap bs (b :: pending) (fill + 1)

/-- The payloads of the transactions of `Stream(bytes, unit)`: chunk capacity `C = unit * floor(BUF_CAP / unit)`. -/
def chunks (bufCap unit : Nat) (bytes : List Byte) : List (List Byte) :=
  chunksFrom (unit * (bufCap / unit)) bytes [] 0

/-- `Stream(bytes, unit)` (R131). -/
def streamActs (cfg : Params) (unit : Nat) (bytes : List Byte) (frame : Option CacheWrite) : List Act :=
  .clearFill :: (chunks cfg.bufCap unit bytes).map (fun c => .chunk c frame)

/-- `SendCommand(op, data)` (R150). -/
def sendCommand (cfg : Params) (op : Byte) (data : List Byte) (frame : Option CacheWrite) : List Act :=
  [.drive .sel false, .drive .dc false, .send op frame, .drive .dc true]
    ++ streamActs cfg 1 data frame ++ [.drive .sel true]

/-- `MemWriteStream(bytes)` (R152): the command, then the stream in a bracket of its own. -/
def memWriteStream (cfg : Params) (bytes : List Byte) : List Act :=
  sendCommand cfg Config.opMemoryWrite [] none
    ++ [.drive .sel false] ++ streamActs cfg 2 bytes none ++ [.drive .sel true]

/-- The column half of `SetWindow` (R153): a frame only where the cached pair differs, then the pair is written. -/
def columnActs (s : State) (first last : Half) : List Act :=
  if (first, last) = (s.colStart, s.colEnd) then []
  else sendCommand s.cfg Config.opColumnSet (halfBytes first ++ halfBytes last) (some (.col first last))
    ++ [.cache (.col first last)]

/-- The row half of `SetWindow` (R153). -/
def rowActs (s : State) (first last : Half) : List Act :=
  if (first, last) = (s.rowStart, s.rowEnd) then []
  else sendCommand s.cfg Config.opRowSet (halfBytes first ++ halfBytes last) (some (.row first last))
    ++ [.cache (.row first last)]

/-- `SetWindow(x, y, w, h)` (R153): exact integers, truncated to 16 bits; the column frame precedes the row frame. -/
def windowActs (s : State) (x y w h : Int) : List Act :=
  columnActs s (trunc16 x) (trunc16 (x + w - 1)) ++ rowActs s (trunc16 y) (trunc16 (y + h - 1))

/-- The last two steps of every drawing primitive (R156): the window, then the pixels. -/
def paintActs (s : State) (x y w h : Int) (bytes : List Byte) : List Act :=
  windowActs s x y w h ++ memWriteStream s.cfg bytes

end Sys2Proof.Machine
end

