-- ==== Sys2Proof/Machine/Btb.lean ====
section
/-!
DEFINITION. The bus transport buffer's operations (41_bus_transport.md R132 to R135). None drives a pin (R138).
-/

namespace Sys2Proof.Machine

/-- `WRITE_BYTE` (R132): one transaction of length 1. -/
def execWriteByte (b : Byte) (s : State) : Host.Outcome State Fault Refusal :=
  hostOp (Instr.writeByte b).code onD (fun _ => Plan.run [.send b none] []) s

/-- `WRITE_BYTES` (R133). -/
def execWriteBytes (bs : List Byte) (s : State) : Host.Outcome State Fault Refusal :=
  hostOp (Instr.writeBytes bs).code onD (fun s => Plan.run (streamActs s.cfg 1 bs none) []) s

/-- `WRITE_REP16` (R134). -/
def execWriteRep16 (v : Half) (count : Count) (s : State) : Host.Outcome State Fault Refusal :=
  hostOp (Instr.writeRep16 v count).code onD
    (fun s => Plan.run (streamActs s.cfg 2 (repeatHalf v (u32 count)) none) []) s

/-- `WRITE_PACKED_ARRAY` (R135). -/
def execWritePackedArray (cs : List Half) (s : State) : Host.Outcome State Fault Refusal :=
  hostOp (Instr.writePackedArray cs).code onD (fun s => Plan.run (streamActs s.cfg 2 (pairBytes cs) none) []) s

end Sys2Proof.Machine
end

