-- ==== Sys2Proof/Machine/Dpe.lean ====
section
/-!
DEFINITION. The display protocol engine's operations (42_display_engine.md R153, R157 to R161, R163 to R165).
-/

namespace Sys2Proof.Machine

/-! ### Clipping (R156): each primitive its own policy (R162) -/

/-- The clamped and ordered endpoints of a line, as its start and its length (R158, R159). -/
def lineSpan (inclusive : Bool) (p q dim : Int) : Int × Int :=
  let a := clamp p 0 (dim - 1)
  let b := clamp q 0 (dim - 1)
  let (a, b) := if a > b then (b, a) else (a, b)
  (a, if inclusive then b - a + 1 else b - a)

/-- One axis of `FILL_RECT`'s clipping (R160): the origin clamped to zero by shrinking the size, then the far edge. -/
def clipAxis (far : Bool) (o n dim : Int) : Int × Int :=
  let (o, n) := if o < 0 then (0, n + o) else (o, n)
  (o, if far ∧ o + n > dim then dim - o else n)

/-- `SET_PIXEL` (R157): a pixel off the panel is dropped. -/
def pixelPlan (x y : Int) (c : Half) (s : State) : Plan :=
  if x < 0 ∨ Config.panelWidth ≤ x ∨ y < 0 ∨ Config.panelHeight ≤ y then Plan.noOp
  else Plan.run (paintActs s x y 1 1 (halfBytes c)) []

/-- `DRAW_HLINE` (R158). -/
def hlinePlan (x0 x1 y : Int) (c : Half) (s : State) : Plan :=
  if y < 0 ∨ Config.panelHeight ≤ y then Plan.noOp
  else
    let (a, len) := lineSpan s.cfg.lineLenInclusive x0 x1 Config.panelWidth
    if len ≤ 0 then Plan.noOp else Plan.run (paintActs s a y len 1 (repeatHalf c len.toNat)) []

/-- `DRAW_VLINE` (R159). -/
def vlinePlan (x y0 y1 : Int) (c : Half) (s : State) : Plan :=
  if x < 0 ∨ Config.panelWidth ≤ x then Plan.noOp
  else
    let (a, len) := lineSpan s.cfg.lineLenInclusive y0 y1 Config.panelHeight
    if len ≤ 0 then Plan.noOp else Plan.run (paintActs s x a 1 len (repeatHalf c len.toNat)) []

/-- `FILL_RECT` (R160): exact arithmetic. -/
def fillPlan (x y w h : Int) (c : Half) (s : State) : Plan :=
  let (x, w) := clipAxis s.cfg.rectClipFar x w Config.panelWidth
  let (y, h) := clipAxis s.cfg.rectClipFar y h Config.panelHeight
  if w ≤ 0 ∨ h ≤ 0 then Plan.noOp else Plan.run (paintActs s x y w h (repeatHalf c (w * h).toNat)) []

/-- `BLIT` (R161): an unknown handle is an error before any event; a bitmap that is empty or does not fit strictly
inside is a no-op; else the whole buffer is streamed in index order (20_memory.md R56). -/
def blitPlan (sel : Byte) (x y : Int) (pb : Byte) (s : State) : Plan :=
  match s.pixelBuffer pb with
  | none => Plan.answer (Response.illegal sel)
  | some b =>
    if u16 b.w = 0 ∨ u16 b.h = 0 then Plan.noOp
    else if x < 0 ∨ y < 0 then Plan.noOp
    else if Config.panelWidth ≤ x + u16 b.w ∨ Config.panelHeight ≤ y + u16 b.h then Plan.noOp
    else Plan.run (paintActs s x y (u16 b.w) (u16 b.h) (pairBytes b.data)) []

/-! ### Reset and initialization -/

/-- `RESET` (R163): by the reset line if there is one, else by the software-reset command. -/
def resetActs (cfg : Params) : List Act :=
  if cfg.hasRst then
    [.drive .rst false, .wait Config.tRstHold, .drive .rst true, .wait Config.tRstSettle]
  else sendCommand cfg Config.opSoftwareReset [] none ++ [.wait Config.tRstSettle]

/-- `INIT` (R164), in its order. -/
def initActs (cfg : Params) : List Act :=
  sendCommand cfg Config.opPower1 cfg.initC0 none
    ++ sendCommand cfg Config.opPower2 cfg.initC1 none
    ++ sendCommand cfg Config.opVcom cfg.initC5 none
    ++ sendCommand cfg Config.opPixelFormat cfg.init3A none
    ++ sendCommand cfg Config.opFrameRate cfg.initB1 none
    ++ sendCommand cfg Config.opDisplayFunction cfg.initB6 none
    ++ sendCommand cfg Config.opInversionOn [] none
    ++ sendCommand cfg Config.opMemoryAccess cfg.init36 none
    ++ sendCommand cfg Config.opSleepOut [] none
    ++ [.wait Config.tSlpout]
    ++ sendCommand cfg Config.opDisplayOn [] none

/-! ### The operations -/

/-- `SET_WINDOW` (R153): it does not clip. -/
def execSetWindow (x y w h : Half) (s : State) : Host.Outcome State Fault Refusal :=
  hostOp (Instr.setWindow x y w h).code onD (fun s => Plan.run (windowActs s (s16 x) (s16 y) (s16 w) (s16 h)) []) s

/-- `SET_PIXEL` (R157). -/
def execSetPixel (x y c : Half) (s : State) : Host.Outcome State Fault Refusal :=
  hostOp (Instr.setPixel x y c).code onD (pixelPlan (s16 x) (s16 y) c) s

/-- `DRAW_HLINE` (R158). -/
def execDrawHLine (x0 x1 y c : Half) (s : State) : Host.Outcome State Fault Refusal :=
  hostOp (Instr.drawHLine x0 x1 y c).code onD (hlinePlan (s16 x0) (s16 x1) (s16 y) c) s

/-- `DRAW_VLINE` (R159). -/
def execDrawVLine (x y0 y1 c : Half) (s : State) : Host.Outcome State Fault Refusal :=
  hostOp (Instr.drawVLine x y0 y1 c).code onD (vlinePlan (s16 x) (s16 y0) (s16 y1) c) s

/-- `FILL_RECT` (R160). -/
def execFillRect (x y w h c : Half) (s : State) : Host.Outcome State Fault Refusal :=
  hostOp (Instr.fillRect x y w h c).code onD (fillPlan (s16 x) (s16 y) (s16 w) (s16 h) c) s

/-- `BLIT` (R161). -/
def execBlit (x y : Half) (pb : Byte) (s : State) : Host.Outcome State Fault Refusal :=
  hostOp (Instr.blit x y pb).code onD (blitPlan (Instr.blit x y pb).code (s16 x) (s16 y) pb) s

/-- `RESET` (R163). -/
def execReset (s : State) : Host.Outcome State Fault Refusal :=
  hostOp Instr.reset.code onD (fun s => Plan.run (resetActs s.cfg) []) s

/-- `INIT` (R164). -/
def execInit (s : State) : Host.Outcome State Fault Refusal :=
  hostOp Instr.init.code onD (fun s => Plan.run (initActs s.cfg) []) s

/-- `SIZE` (R165). -/
def execSize (s : State) : Host.Outcome State Fault Refusal :=
  hostOp Instr.size.code onD
    (fun _ => Plan.answer (Response.done (halfBytes (trunc16 Config.panelWidth) ++ halfBytes (trunc16 Config.panelHeight)))) s

end Sys2Proof.Machine
end

