-- ==== Sys2Proof/Machine/Inner.lean ====
section
/-!
DEFINITION. The rows of the opcode table that are not host requests, run alone (log 4): a display command is the frame
the command sequencer emits for it (30_encoding.md R86, R87, 42_display_engine.md R150, R152), the keyboard request is
the keyboard transaction (30_encoding.md R91), a keyboard response is its classification (43_keyboard_decoder.md R191,
R192). The host operations use the same procedures. A row run alone acts on the bench, so that the block itself emits no
opcode but from the operation R87 names (R94) and its latches are written by `KBD_POLL` alone (10_state.md R28).
-/

namespace Sys2Proof.Machine

/-- `SOFTWARE_RESET`, no data (R87). -/
def execSoftwareReset (s : State) : Host.Outcome State Fault Refusal :=
  innerD (sendCommand s.cfg Config.opSoftwareReset [] none) s

/-- `SLEEP_OUT`, no data (R87). -/
def execSleepOut (s : State) : Host.Outcome State Fault Refusal :=
  innerD (sendCommand s.cfg Config.opSleepOut [] none) s

/-- `INVERSION_ON`, no data (R87). -/
def execInversionOn (s : State) : Host.Outcome State Fault Refusal :=
  innerD (sendCommand s.cfg Config.opInversionOn [] none) s

/-- `DISPLAY_ON`, no data (R87). -/
def execDisplayOn (s : State) : Host.Outcome State Fault Refusal :=
  innerD (sendCommand s.cfg Config.opDisplayOn [] none) s

/-- `COLUMN_ADDRESS_SET`, four data bytes (R87, R89). The cache is written by `SetWindow` alone
(10_state.md R23). -/
def execColumnAddressSet (first last : Half) (s : State) : Host.Outcome State Fault Refusal :=
  innerD (sendCommand s.cfg Config.opColumnSet (halfBytes first ++ halfBytes last) none) s

/-- `PAGE_ADDRESS_SET`, four data bytes (R87, R89). -/
def execPageAddressSet (first last : Half) (s : State) : Host.Outcome State Fault Refusal :=
  innerD (sendCommand s.cfg Config.opRowSet (halfBytes first ++ halfBytes last) none) s

/-- `MEMORY_WRITE` and its pixel stream (R87, R90, R152). -/
def execMemoryWrite (pixels : List Half) (s : State) : Host.Outcome State Fault Refusal :=
  innerD (memWriteStream s.cfg (pairBytes pixels)) s

/-- `MEMORY_ACCESS_CONTROL`, one data byte (R87). -/
def execMemoryAccessControl (d : Byte) (s : State) : Host.Outcome State Fault Refusal :=
  innerD (sendCommand s.cfg Config.opMemoryAccess [d] none) s

/-- `PIXEL_FORMAT`, one data byte (R87). -/
def execPixelFormat (d : Byte) (s : State) : Host.Outcome State Fault Refusal :=
  innerD (sendCommand s.cfg Config.opPixelFormat [d] none) s

/-- `FRAME_RATE_CONTROL`, two data bytes (R87). -/
def execFrameRateControl (d0 d1 : Byte) (s : State) : Host.Outcome State Fault Refusal :=
  innerD (sendCommand s.cfg Config.opFrameRate [d0, d1] none) s

/-- `DISPLAY_FUNCTION_CONTROL`, three data bytes (R87). -/
def execDisplayFunctionControl (d0 d1 d2 : Byte) (s : State) : Host.Outcome State Fault Refusal :=
  innerD (sendCommand s.cfg Config.opDisplayFunction [d0, d1, d2] none) s

/-- `POWER_CONTROL_1`, two data bytes (R87). -/
def execPowerControl1 (d0 d1 : Byte) (s : State) : Host.Outcome State Fault Refusal :=
  innerD (sendCommand s.cfg Config.opPower1 [d0, d1] none) s

/-- `POWER_CONTROL_2`, one data byte (R87). -/
def execPowerControl2 (d : Byte) (s : State) : Host.Outcome State Fault Refusal :=
  innerD (sendCommand s.cfg Config.opPower2 [d] none) s

/-- `VCOM_CONTROL`, four data bytes (R87). -/
def execVcomControl (d0 d1 d2 d3 : Byte) (s : State) : Host.Outcome State Fault Refusal :=
  innerD (sendCommand s.cfg Config.opVcom [d0, d1, d2, d3] none) s

/-- `KBD_REQ` (R91): the transaction. The two bytes received stand next to be decoded, as a KBD_RSP (R92). -/
def kbdRequest (s : State) : State × Response :=
  match kbdTransaction s with
  | (s, .fail e) => (s, Response.busFailed e)
  | (s, .bytes tag key) => ({ s with pending := ⟨.kbdRsp, [tag, key]⟩ :: s.pending }, Response.done [])

/-- `KBD_REQ` (R91). -/
def execKbdReq (s : State) : Host.Outcome State Fault Refusal := runInner kbdRequest s

/-- `KBD_RSP_NONE`, tag 0 (R92). -/
def execKbdRspNone (key : Byte) (s : State) : Host.Outcome State Fault Refusal := runInner (keyNone key) s

/-- `KBD_RSP_DOWN`, tag 1 (R92). -/
def execKbdRspDown (key : Byte) (s : State) : Host.Outcome State Fault Refusal := runInner (keyDown key) s

/-- `KBD_RSP_HELD`, tag 2 (R92). -/
def execKbdRspHeld (key : Byte) (s : State) : Host.Outcome State Fault Refusal := runInner (keyHeld key) s

/-- `KBD_RSP_UP`, tag 3 (R92). -/
def execKbdRspUp (key : Byte) (s : State) : Host.Outcome State Fault Refusal := runInner (keyUp key) s

/-- `KBD_RSP_INVALID`, tag 0x04 to 0xFF (R92). -/
def execKbdRspInvalid (tag key : Byte) (s : State) : Host.Outcome State Fault Refusal := runInner (keyInvalid tag key) s

end Sys2Proof.Machine
end

