-- ==== Sys2Proof/Machine/Ked.lean ====
section
/-!
DEFINITION. The keyboard event decoder's operations (43_keyboard_decoder.md R191, R194).
-/

namespace Sys2Proof.Machine

/-- `KBD_POLL` (R191): one transaction; its reply is the poll's. -/
def execKbdPoll (s : State) : Host.Outcome State Fault Refusal :=
  hostOp Instr.kbdPoll.code onK (fun _ => ⟨[], true, Response.done []⟩) s

/-- `KBD_LATCH` (R194). -/
def execKbdLatch (s : State) : Host.Outcome State Fault Refusal :=
  hostOp Instr.kbdLatch.code onK (fun s => Plan.answer (Response.done [latchByte s.altDown s.ctrlDown])) s

end Sys2Proof.Machine
end

