-- ==== Sys2Proof/Machine/Pbm.lean ====
section
/-!
DEFINITION. The pixel buffer memory's operations (44_pixel_buffer.md R211 to R215). None emits an event (R210).
-/

namespace Sys2Proof.Machine

/-- A PBM operation on a buffer: `ILLEGAL_OP` with its own selector where the handle names none (R210). -/
def withBuffer (sel pb : Byte) (s : State) (plan : PixelBuffer → Plan) : Plan :=
  match s.pixelBuffer pb with
  | none => Plan.answer (Response.illegal sel)
  | some b => plan b

/-- `PB_CREATE` (R211): `NO_SPACE` where the slots or the words are exhausted (20_memory.md R57). -/
def createPlan (w h : Half) (s : State) : Plan :=
  if s.cfg.pbmSlots ≤ s.pbmNext ∨ s.cfg.pbmWords < s.pbmUsed + u16 w * u16 h then Plan.answer Response.full
  else Plan.run [.pbNew w h] [BitVec.ofNat 8 s.pbmNext]

/-- `PB_SET` (R212): a pixel outside the buffer is dropped. -/
def setPlan (pb : Byte) (x y : Int) (c : Half) (b : PixelBuffer) : Plan :=
  match b.index? x y with
  | none => Plan.noOp
  | some i => Plan.run [.pbWrite pb i c] []

/-- `PB_GET` (R214): a pixel outside the buffer is an error. -/
def getPlan (sel : Byte) (x y : Int) (b : PixelBuffer) : Plan :=
  match b.index? x y with
  | none => Plan.answer (Response.illegal sel)
  | some i => Plan.answer (Response.done (halfBytes (b.word i)))

/-- `PB_CREATE` (R211). -/
def execPbCreate (w h : Half) (s : State) : Host.Outcome State Fault Refusal :=
  hostOp (Instr.pbCreate w h).code onD (createPlan w h) s

/-- `PB_SET` (R212). -/
def execPbSet (pb : Byte) (x y c : Half) (s : State) : Host.Outcome State Fault Refusal :=
  hostOp (Instr.pbSet pb x y c).code onD
    (fun s => withBuffer (Instr.pbSet pb x y c).code pb s (setPlan pb (s16 x) (s16 y) c)) s

/-- `PB_FILL` (R213). -/
def execPbFill (pb : Byte) (c : Half) (s : State) : Host.Outcome State Fault Refusal :=
  hostOp (Instr.pbFill pb c).code onD
    (fun s => withBuffer (Instr.pbFill pb c).code pb s (fun _ => Plan.run [.pbFillAll pb c] [])) s

/-- `PB_GET` (R214). -/
def execPbGet (pb : Byte) (x y : Half) (s : State) : Host.Outcome State Fault Refusal :=
  hostOp (Instr.pbGet pb x y).code onD
    (fun s => withBuffer (Instr.pbGet pb x y).code pb s (getPlan (Instr.pbGet pb x y).code (s16 x) (s16 y))) s

/-- `PB_SIZE` (R215). -/
def execPbSize (pb : Byte) (s : State) : Host.Outcome State Fault Refusal :=
  hostOp (Instr.pbSize pb).code onD
    (fun s => withBuffer (Instr.pbSize pb).code pb s
      (fun b => Plan.answer (Response.done (halfBytes b.w ++ halfBytes b.h)))) s

end Sys2Proof.Machine
end

