-- ==== Sys2Proof/Machine/Pfc.lean ====
section
/-!
DEFINITION. The pixel format converter (40_pixel_format.md): no state, no event, no error (R120).
-/

namespace Sys2Proof.Machine

/-- PACKED (30_encoding.md R88): red in bits 4:0, green in bits 10:5, blue in bits 15:11. -/
def packed (red green blue : Byte) : Half :=
  red.setWidth 16 ||| (green.setWidth 16 <<< Config.greenOffset) ||| (blue.setWidth 16 <<< Config.blueOffset)

/-- `toPacked` (R121): right-shift truncation; alpha is not read. -/
def toPackedColor (r g b : Byte) : Half :=
  packed (r >>> Config.redShift) (g >>> Config.greenShift) (b >>> Config.blueShift)

/-- `makePacked` (R122): each channel masked to its field. -/
def makePackedColor (r g b : Byte) : Half :=
  packed (r &&& Config.redMask) (g &&& Config.greenMask) (b &&& Config.blueMask)

/-- `TO_PACKED` (R121). -/
def execToPacked (r g b a : Byte) (s : State) : Host.Outcome State Fault Refusal :=
  hostOp (Instr.toPacked r g b a).code onBoth
    (fun _ => Plan.answer (Response.done (halfBytes (toPackedColor r g b)))) s

/-- `MAKE_PACKED` (R122). -/
def execMakePacked (r g b : Byte) (s : State) : Host.Outcome State Fault Refusal :=
  hostOp (Instr.makePacked r g b).code onBoth
    (fun _ => Plan.answer (Response.done (halfBytes (makePackedColor r g b)))) s

end Sys2Proof.Machine
end

