-- ==== Sys2Proof/Machine/Dispatch.lean ====
section
/-!
DEFINITION. The meaning of each instruction: one arm per constructor.
-/

namespace Sys2Proof.Machine

def exec (i : Instr) (s : State) : Host.Outcome State Fault Refusal :=
  match i with
  | .toPacked r g b a => Sys2Proof.Machine.execToPacked r g b a s
  | .makePacked r g b => Sys2Proof.Machine.execMakePacked r g b s
  | .writeByte b => Sys2Proof.Machine.execWriteByte b s
  | .writeBytes bs => Sys2Proof.Machine.execWriteBytes bs s
  | .writeRep16 v count => Sys2Proof.Machine.execWriteRep16 v count s
  | .writePackedArray cs => Sys2Proof.Machine.execWritePackedArray cs s
  | .setWindow x y w h => Sys2Proof.Machine.execSetWindow x y w h s
  | .setPixel x y c => Sys2Proof.Machine.execSetPixel x y c s
  | .drawHLine x0 x1 y c => Sys2Proof.Machine.execDrawHLine x0 x1 y c s
  | .drawVLine x y0 y1 c => Sys2Proof.Machine.execDrawVLine x y0 y1 c s
  | .fillRect x y w h c => Sys2Proof.Machine.execFillRect x y w h c s
  | .blit x y pb => Sys2Proof.Machine.execBlit x y pb s
  | .reset => Sys2Proof.Machine.execReset s
  | .init => Sys2Proof.Machine.execInit s
  | .size => Sys2Proof.Machine.execSize s
  | .kbdPoll => Sys2Proof.Machine.execKbdPoll s
  | .kbdLatch => Sys2Proof.Machine.execKbdLatch s
  | .pbCreate w h => Sys2Proof.Machine.execPbCreate w h s
  | .pbSet pb x y c => Sys2Proof.Machine.execPbSet pb x y c s
  | .pbFill pb c => Sys2Proof.Machine.execPbFill pb c s
  | .pbGet pb x y => Sys2Proof.Machine.execPbGet pb x y s
  | .pbSize pb => Sys2Proof.Machine.execPbSize pb s
  | .softwareReset => Sys2Proof.Machine.execSoftwareReset s
  | .sleepOut => Sys2Proof.Machine.execSleepOut s
  | .inversionOn => Sys2Proof.Machine.execInversionOn s
  | .displayOn => Sys2Proof.Machine.execDisplayOn s
  | .columnAddressSet first last => Sys2Proof.Machine.execColumnAddressSet first last s
  | .pageAddressSet first last => Sys2Proof.Machine.execPageAddressSet first last s
  | .memoryWrite pixels => Sys2Proof.Machine.execMemoryWrite pixels s
  | .memoryAccessControl d => Sys2Proof.Machine.execMemoryAccessControl d s
  | .pixelFormat d => Sys2Proof.Machine.execPixelFormat d s
  | .frameRateControl d0 d1 => Sys2Proof.Machine.execFrameRateControl d0 d1 s
  | .displayFunctionControl d0 d1 d2 => Sys2Proof.Machine.execDisplayFunctionControl d0 d1 d2 s
  | .powerControl1 d0 d1 => Sys2Proof.Machine.execPowerControl1 d0 d1 s
  | .powerControl2 d => Sys2Proof.Machine.execPowerControl2 d s
  | .vcomControl d0 d1 d2 d3 => Sys2Proof.Machine.execVcomControl d0 d1 d2 d3 s
  | .kbdReq => Sys2Proof.Machine.execKbdReq s
  | .kbdRspNone key => Sys2Proof.Machine.execKbdRspNone key s
  | .kbdRspDown key => Sys2Proof.Machine.execKbdRspDown key s
  | .kbdRspHeld key => Sys2Proof.Machine.execKbdRspHeld key s
  | .kbdRspUp key => Sys2Proof.Machine.execKbdRspUp key s
  | .kbdRspInvalid tag key => Sys2Proof.Machine.execKbdRspInvalid tag key s

end Sys2Proof.Machine
end

