-- ==== Sys2Proof/Machine/Fetch.lean ====
section
/-!
DEFINITION. Taking the next move: which request is submitted, on which port, and what its bytes are. The block fetches
no instructions (10_state.md R21); the requests come from the host (log 3).
-/

namespace Sys2Proof.Machine

/-- The format the bytes of a channel are in. -/
def Channel.format : Channel → Format
  | .hopD => .hostReq
  | .hopK => .hostReq
  | .dispCmd => .dispCmd
  | .kbdReq => .kbdReq
  | .kbdRsp => .kbdRsp

/-- The side of the block a channel belongs to (20_memory.md R64). -/
def Channel.port : Channel → Port
  | .hopD => .hopD
  | .hopK => .hopK
  | .dispCmd => .hopD
  | .kbdReq => .hopK
  | .kbdRsp => .hopK

/-- What a step has to do. -/
inductive Fetched where
  /-- Run an instruction. -/
  | run (i : Instr) (s : State)
  /-- The step is over. -/
  | over (o : Host.Outcome State Fault Refusal)

/-- Bytes that are no instruction: an unassigned selector completes with `ILLEGAL_OP` (30_encoding.md R93), a malformed
host frame is stuck (U13, log 9), a malformed inner row is refused (log 4). -/
def rejectFrame (e : DecodeError) (c : Channel) (s : State) : Host.Outcome State Fault Refusal :=
  match e, c.format with
  | .unassigned sel, .hostReq => runHost sel (Plan.answer (Response.illegal sel)) s
  | .long _, .hostReq => .fault .overlongFrame
  | _, .hostReq => .fault .shortFrame
  | _, _ => .refused .badInnerFrame

/-- Submit a request: its port, and the instruction its bytes are. -/
def submit (r : Request) (s : State) : Fetched :=
  match decode r.chan.format r.bytes with
  | .ok i => .run i { s with port := r.chan.port }
  | .error e => .over (rejectFrame e r.chan { s with port := r.chan.port })

/-- The first pending request of a port, and the others. -/
def takeFor (p : Port) : List Request → Option (Request × List Request)
  | [] => none
  | r :: rs =>
    if r.chan.port = p then some (r, rs)
    else match takeFor p rs with
      | some (q, qs) => some (q, r :: qs)
      | none => none

/-- The port whose move is next: the script's, else a free value (R64, U11, log 2). -/
def State.turn (s : State) : Port :=
  match s.turnScript with
  | p :: _ => p
  | [] => Config.freeTurn s.turnCount

/-- The state once that turn is taken. -/
def turnTaken (s : State) : State := { s with turnScript := s.turnScript.tail, turnCount := s.turnCount + 1 }

/-- HOP_D's turn: a busy port makes one move, an idle one accepts its next request, if there is one. -/
def turnD (s : State) : Fetched :=
  match s.seqD with
  | .busy .. => .over (.next (advanceD s))
  | .idle =>
    match takeFor .hopD s.pending with
    | none => .over (.next s)
    | some (r, rs) => submit r { s with pending := rs }

/-- HOP_K's turn. -/
def turnK (s : State) : Fetched :=
  match s.seqK with
  | .busy .. => .over (.next (advanceK s))
  | .idle =>
    match takeFor .hopK s.pending with
    | none => .over (.next s)
    | some (r, rs) => submit r { s with pending := rs }

/-- A step of grain `whole`: an operation in progress completes; else the next request is submitted; with none the
block waits and nothing changes (70_reset_and_hazards.md R261). -/
def wholeStep (s : State) : Fetched :=
  match s.seqD, s.seqK, s.pending with
  | .busy .., _, _ => .over (.next (finishD s))
  | .idle, .busy .., _ => .over (.next (finishK s))
  | .idle, .idle, [] => .over (.next s)
  | .idle, .idle, r :: rs => submit r { s with pending := rs }

/-- A step of grain `event`: one move of the port whose turn it is. -/
def eventStep (s : State) : Fetched :=
  match s.turn with
  | .hopD => turnD (turnTaken s)
  | .hopK => turnK (turnTaken s)

/-- What the next step has to do (log 1). -/
def fetch (s : State) : Fetched :=
  match s.grain with
  | .whole => wholeStep s
  | .event => eventStep s

/-- The channel that takes an instruction: for a host operation the port that accepts it (30_encoding.md R81, R82). -/
def Instr.channel (i : Instr) : Channel :=
  match i.format, i with
  | .hostReq, .kbdPoll => .hopK
  | .hostReq, .kbdLatch => .hopK
  | .hostReq, _ => .hopD
  | .dispCmd, _ => .dispCmd
  | .kbdReq, _ => .kbdReq
  | .kbdRsp, _ => .kbdRsp

/-- Put an instruction where the very next step takes it: first among the pending requests of a machine whose ports are
idle and whose steps are whole operations (log 3). -/
def placeNext (i : Instr) (s : State) : State :=
  { s with seqD := .idle, seqK := .idle, grain := .whole, pending := ⟨Instr.channel i, encode i⟩ :: s.pending }

end Sys2Proof.Machine
end

