-- ==== Sys2Proof/Machine/Step.lean ====
section
/-!
DEFINITION. One step of the machine, and the host's way to place an instruction.
-/

namespace Sys2Proof.Machine

/-- One step: what `fetch` says, running an instruction by `exec`. -/
def step (s : State) : Host.Outcome State Fault Refusal :=
  match fetch s with
  | .run i s => exec i s
  | .over o => o

/-- `s` with the table's word placed where the very next step takes it (log 3); where the word is no instruction of the
table, its bytes stand on HOP_D. -/
def State.withFetchWord (s : State) (nbits w : Nat) : State :=
  match decodeTableWord nbits w with
  | some i => placeNext i s
  | none => { s with
      seqD := .idle, seqK := .idle, grain := .whole, pending := ⟨.hopD, tableFrame nbits w⟩ :: s.pending }

end Sys2Proof.Machine
end

