-- ==== Sys2Proof/Machine/Controller.lean ====
section
/-!
DEFINITION. The reference reading of the display controller (20_memory.md R66 to R70), as a function of what the display
bus shows. It is not part of the block and nothing in `State` or `step` uses it (log 14). It gives a pixel a place only
where both ranges were latched by complete frames (R66) since the controller last became unknown (R69, R268, R271), and
the pixel lies in the window (R68). What the controller makes of a transaction that failed, of bytes outside a frame and
of opcodes outside R87 the spec leaves open (R270, R271, 93_implementation_defined.md U4, U5): there the observer forgets
(DESIGN CHOICE, log 14), and claims nothing. DESIGN CHOICE (log 14): the reading supposes that nothing but the events it
is given reaches the controller: no other agent drives the bus or resets the controller between them, for what that does
the spec refuses to say (R69, R268, U5).
-/

namespace Sys2Proof.Machine

/-- What an observer of the display bus knows of the controller. -/
structure Observer where
  /-- The select level; none where a failure left it open (60_exceptions.md R239 (c)). -/
  sel : Option Bool
  /-- The command-mode / data-mode level; none where a failure left it open. -/
  dc : Option Bool
  /-- The command whose data bytes are being read. -/
  opcode : Option Byte
  /-- The data bytes since the opcode; for memory-write, the bytes of an incomplete pixel. -/
  data : List Byte
  /-- The latched column range, if it is known. -/
  cols : Option (Half × Half)
  /-- The latched row range, if it is known. -/
  rows : Option (Half × Half)
  /-- How many pixels the stream has had. -/
  count : Nat
  /-- Column, row and colour of each pixel written at a known place, oldest first, since the last time something
  unknown could change the panel. -/
  painted : List (Nat × Nat × Half)
deriving DecidableEq, Repr

/-- Where pixel `k` of a stream goes (R67): column first, then row; nowhere beyond the window (R68). -/
def pixelPlace (cols rows : Half × Half) (k : Nat) : Option (Nat × Nat) :=
  let n := cols.2.toNat + 1 - cols.1.toNat
  let m := rows.2.toNat + 1 - rows.1.toNat
  if k < n * m then some (cols.1.toNat + k % n, rows.1.toNat + k / n) else none

/-- The controller's window and panel are unknown: after its reset (R69, U4), and where the spec refuses an effect (U5). -/
def Observer.forget (o : Observer) : Observer := { o with cols := none, rows := none, painted := [] }

/-- A complete pixel of a stream: at its place in a known window; anywhere in an unknown one (R69); with an effect the
spec refuses beyond the window (R68, U5). -/
def Observer.pixel (o : Observer) (c : Half) : Observer :=
  let o := { o with data := [], count := o.count + 1 }
  match o.cols, o.rows with
  | some cols, some rows =>
    match pixelPlace cols rows (o.count - 1) with
    | some (x, y) => { o with painted := o.painted ++ [(x, y, c)] }
    | none => o.forget
  | _, _ => { o with painted := [] }

/-- An opcode: a window command leaves its axis unknown until its frame is complete (R66, R268), software-reset leaves
the controller unknown (R69), and so does an opcode outside R87 (U5). -/
def Observer.command (o : Observer) (op : Byte) : Observer :=
  let o := { o with opcode := some op, data := [], count := 0 }
  if op = Config.opColumnSet then { o with cols := none }
  else if op = Config.opRowSet then { o with rows := none }
  else if op = Config.opSoftwareReset then o.forget
  else if op ∈ Config.opcodes then o
  else o.forget

/-- A data byte: of memory-write, a half of a pixel; of another command, one of its data; of none, an effect the spec
refuses (R270, U5). -/
def Observer.datum (o : Observer) (b : Byte) : Observer :=
  match o.opcode with
  | none => o.forget
  | some op =>
    if op = Config.opMemoryWrite then
      match o.data with
      | [hi] => o.pixel (half hi b)
      | _ => { o with data := [b] }
    else { o with data := o.data ++ [b] }

/-- One byte on the bus: nothing while deselected, an opcode in command mode, else data. While a failure has left the
levels open it may reach the controller, with an effect the spec refuses (R270, U5). -/
def Observer.byte (o : Observer) (b : Byte) : Observer :=
  match o.sel, o.dc with
  | some true, _ => o
  | some false, some false => o.command b
  | some false, some true => o.datum b
  | _, _ => o.forget

/-- The range of a column-set or row-set command's data (R66), if the data are complete. -/
def rangeOf : List Byte → Option (Half × Half)
  | [a, b, c, d] => some (half a b, half c d)
  | _ => none

/-- The end of a frame: a complete column-set or row-set frame latches its range, and an incomplete one leaves it
unknown (R66, R268). Memory-write goes on, for its stream has a bracket of its own (42_display_engine.md R152); any other
command is over. -/
def Observer.deselect (o : Observer) : Observer :=
  let ended := { o with sel := some true, data := [] }
  if o.opcode = some Config.opMemoryWrite then ended
  else if o.opcode = some Config.opColumnSet then { ended with opcode := none, cols := rangeOf o.data }
  else if o.opcode = some Config.opRowSet then { ended with opcode := none, rows := rangeOf o.data }
  else { ended with opcode := none }

/-- One event that succeeds. The bytes of a transaction are read one by one, so its boundaries carry no meaning (R70).
The reset line leaves the controller unknown (R69). -/
def Observer.event (o : Observer) : DispEvent → Observer
  | .drive .sel true => o.deselect
  | .drive .sel false => { o with sel := some false }
  | .drive .dc level => { o with dc := some level }
  | .drive .rst false => { o with opcode := none, data := [], count := 0 }.forget
  | .drive .rst true => o
  | .xfer bs => bs.foldl Observer.byte o
  | .wait _ => o

/-- What events that all succeed show an observer. DESIGN CHOICE (log 14): no other agent drives the bus or resets the
controller between them. Where one did, the controller is unknown (R69, R268): the reading goes on from
`Observer.forget`. -/
def Observer.watch (o : Observer) (evs : List DispEvent) : Observer := evs.foldl Observer.event o

/-- A transaction that fails. DESIGN CHOICE (log 14): which of its bytes the controller received is open, so nothing is
claimed of them. In a window frame that axis alone becomes unknown, as in program P5 of 95_test_vectors.md; elsewhere the
controller's window does (R271). The panel is unknown, the levels are a draw (60_exceptions.md R239 (c)), and no frame
goes on. -/
def Observer.failed (o : Observer) (bs : List Byte) : Observer :=
  let read := bs.foldl Observer.byte o
  let lost := { read with sel := none, dc := none, opcode := none, data := [], count := 0, painted := [] }
  if read.opcode = some Config.opColumnSet ∨ read.opcode = some Config.opRowSet then lost else lost.forget

/-- What the events of a whole operation show an observer who also learns its status: on `BUS_FAIL` the last event is
the transaction that failed (60_exceptions.md R237). -/
def Observer.operation (o : Observer) (evs : List DispEvent) (status : Status) : Observer :=
  match status, evs.getLast? with
  | .busFail, some (.xfer bs) => (o.watch evs.dropLast).failed bs
  | _, _ => o.watch evs

/-- An observer who has seen nothing, at the pin levels of block reset. -/
def Observer.start : Observer := ⟨some true, some true, none, [], none, none, 0, []⟩

end Sys2Proof.Machine
end

