-- ==== Sys2Proof/Safety.lean ====
section
/-!
DEFINITION. The terms claims are stated in: when a port can take an operation, when the buses answer well, what a frame
and a stream look like on the bus, what a finished operation leaves, and the invariant of the machine.
-/

namespace Sys2Proof.Machine

/-! ### Readiness and answers -/

/-- The request of the step is on port `p`, which is `IDLE`, and a step is a whole operation. -/
abbrev State.Ready (s : State) (p : Port) : Prop := s.port = p ∧ s.portIsBusy = false ∧ s.grain = .whole

/-- The display bus's answer to the `j`-th transaction from here. -/
def State.busAt (s : State) (j : Nat) : BusAnswer := (s.busScript[j]?).getD (Config.freeBusAnswer (s.busCount + j))

/-- The next `n` display-bus transactions succeed. -/
abbrev State.BusOk (s : State) (n : Nat) : Prop := ∀ j, j < n → s.busAt j = .ok

/-! ### What the bus shows -/

/-- How many events are transactions. -/
def xferCount (evs : List DispEvent) : Nat :=
  evs.countP (fun e => match e with
    | .xfer _ => true
    | _ => false)

/-- The frame of a command (R150). -/
def frameEvents (cap : Nat) (op : Byte) (data : List Byte) : List DispEvent :=
  [.drive .sel false, .drive .dc false, .xfer [op], .drive .dc true]
    ++ (chunks cap 1 data).map .xfer ++ [.drive .sel true]

/-- The memory-write command and the stream in its own bracket (R152). -/
def memWriteEvents (cap : Nat) (bytes : List Byte) : List DispEvent :=
  frameEvents cap Config.opMemoryWrite [] ++ [.drive .sel false] ++ (chunks cap 2 bytes).map .xfer
    ++ [.drive .sel true]

/-- The column frame of `SetWindow`, if the pair misses the cache (R153). -/
def columnEvents (s : State) (first last : Half) : List DispEvent :=
  if (first, last) = (s.colStart, s.colEnd) then []
  else frameEvents s.cfg.bufCap Config.opColumnSet (halfBytes first ++ halfBytes last)

/-- The row frame of `SetWindow`, if the pair misses the cache (R153). -/
def rowEvents (s : State) (first last : Half) : List DispEvent :=
  if (first, last) = (s.rowStart, s.rowEnd) then []
  else frameEvents s.cfg.bufCap Config.opRowSet (halfBytes first ++ halfBytes last)

/-- The frames of `SetWindow(x, y, w, h)` (R153). -/
def windowEvents (s : State) (x y w h : Int) : List DispEvent :=
  columnEvents s (trunc16 x) (trunc16 (x + w - 1)) ++ rowEvents s (trunc16 y) (trunc16 (y + h - 1))

/-- What a drawing primitive shows (R156). -/
def paintEvents (s : State) (x y w h : Int) (bytes : List Byte) : List DispEvent :=
  windowEvents s x y w h ++ memWriteEvents s.cfg.bufCap bytes

/-- The clamped endpoints of a line in order (R158, R159): its first and its last pixel on the axis. -/
def lineEnds (p q dim : Int) : Int × Int :=
  (min (clamp p 0 (dim - 1)) (clamp q 0 (dim - 1)), max (clamp p 0 (dim - 1)) (clamp q 0 (dim - 1)))

/-- The length of a line, with both endpoints counted or one (R158, R159). -/
def lineLength (inclusive : Bool) (p q dim : Int) : Int :=
  (lineEnds p q dim).2 - (lineEnds p q dim).1 + (if inclusive then 1 else 0)

/-- One axis of a rectangle after the origin clamp and the far clip (R160): its origin and its size. -/
def rectAxis (far : Bool) (o n dim : Int) : Int × Int :=
  (max o 0, if far then min (n + min o 0) (dim - max o 0) else n + min o 0)

/-- The point is on the panel. -/
abbrev OnPanel (x y : Int) : Prop := 0 ≤ x ∧ x < Config.panelWidth ∧ 0 ≤ y ∧ y < Config.panelHeight

/-- The bitmap is not empty and lies strictly inside the panel's far edges (R161). -/
abbrev BlitFits (x y : Int) (b : PixelBuffer) : Prop :=
  u16 b.w ≠ 0 ∧ u16 b.h ≠ 0 ∧ 0 ≤ x ∧ 0 ≤ y ∧
    x + u16 b.w < Config.panelWidth ∧ y + u16 b.h < Config.panelHeight

/-- The whole trace of a display-side host operation, if no transaction fails (R131 to R135, R153, R157 to R164). -/
def opEvents (i : Instr) (s : State) : List DispEvent :=
  match i with
  | .writeByte b => [.xfer [b]]
  | .writeBytes bs => (chunks s.cfg.bufCap 1 bs).map .xfer
  | .writeRep16 v n => (chunks s.cfg.bufCap 2 (repeatHalf v (u32 n))).map .xfer
  | .writePackedArray cs => (chunks s.cfg.bufCap 2 (pairBytes cs)).map .xfer
  | .setWindow x y w h => windowEvents s (s16 x) (s16 y) (s16 w) (s16 h)
  | .setPixel x y c => if OnPanel (s16 x) (s16 y) then paintEvents s (s16 x) (s16 y) 1 1 (halfBytes c) else []
  | .drawHLine x0 x1 y c =>
    let len := lineLength s.cfg.lineLenInclusive (s16 x0) (s16 x1) Config.panelWidth
    if 0 ≤ s16 y ∧ s16 y < Config.panelHeight ∧ 0 < len then
      paintEvents s (lineEnds (s16 x0) (s16 x1) Config.panelWidth).1 (s16 y) len 1 (repeatHalf c len.toNat)
    else []
  | .drawVLine x y0 y1 c =>
    let len := lineLength s.cfg.lineLenInclusive (s16 y0) (s16 y1) Config.panelHeight
    if 0 ≤ s16 x ∧ s16 x < Config.panelWidth ∧ 0 < len then
      paintEvents s (s16 x) (lineEnds (s16 y0) (s16 y1) Config.panelHeight).1 1 len (repeatHalf c len.toNat)
    else []
  | .fillRect x y w h c =>
    let a := rectAxis s.cfg.rectClipFar (s16 x) (s16 w) Config.panelWidth
    let b := rectAxis s.cfg.rectClipFar (s16 y) (s16 h) Config.panelHeight
    if 0 < a.2 ∧ 0 < b.2 then paintEvents s a.1 b.1 a.2 b.2 (repeatHalf c (a.2 * b.2).toNat) else []
  | .blit x y pb =>
    match s.pixelBuffer pb with
    | some b =>
      if BlitFits (s16 x) (s16 y) b then paintEvents s (s16 x) (s16 y) (u16 b.w) (u16 b.h) (pairBytes b.data) else []
    | none => []
  | .reset =>
    if s.cfg.hasRst then
      [.drive .rst false, .wait Config.tRstHold, .drive .rst true, .wait Config.tRstSettle]
    else frameEvents s.cfg.bufCap Config.opSoftwareReset [] ++ [.wait Config.tRstSettle]
  | .init =>
    frameEvents s.cfg.bufCap Config.opPower1 s.cfg.initC0
      ++ frameEvents s.cfg.bufCap Config.opPower2 s.cfg.initC1
      ++ frameEvents s.cfg.bufCap Config.opVcom s.cfg.initC5
      ++ frameEvents s.cfg.bufCap Config.opPixelFormat s.cfg.init3A
      ++ frameEvents s.cfg.bufCap Config.opFrameRate s.cfg.initB1
      ++ frameEvents s.cfg.bufCap Config.opDisplayFunction s.cfg.initB6
      ++ frameEvents s.cfg.bufCap Config.opInversionOn []
      ++ frameEvents s.cfg.bufCap Config.opMemoryAccess s.cfg.init36
      ++ frameEvents s.cfg.bufCap Config.opSleepOut []
      ++ [.wait Config.tSlpout]
      ++ frameEvents s.cfg.bufCap Config.opDisplayOn []
  | _ => []

/-- The events up to and including the `j`-th transaction. -/
def throughXfer : List DispEvent → Nat → List DispEvent
  | [], _ => []
  | .xfer bs :: _, 0 => [.xfer bs]
  | .xfer bs :: evs, j + 1 => .xfer bs :: throughXfer evs j
  | e :: evs, j => e :: throughXfer evs j

/-- The ports whose column of the selector map takes the instruction (30_encoding.md R82). -/
def acceptedOn (i : Instr) (p : Port) : Bool :=
  match i, p with
  | .toPacked .., _ => true
  | .makePacked .., _ => true
  | .kbdPoll, p => p == .hopK
  | .kbdLatch, p => p == .hopK
  | i, p => i.format == .hostReq && p == .hopD

/-! ### What TB is filled with: the chunks of the same procedures, in order -/

/-- TB after chunks were staged in order, each from byte 0 (R131). -/
def stageAll (cs : List (List Byte)) (m : Memory) : Memory := cs.foldl (fun m c => Memory.overlay m c) m

/-- The chunks a column frame stages. -/
def columnStaged (s : State) (first last : Half) : List (List Byte) :=
  if (first, last) = (s.colStart, s.colEnd) then []
  else chunks s.cfg.bufCap 1 (halfBytes first ++ halfBytes last)

/-- The chunks a row frame stages. -/
def rowStaged (s : State) (first last : Half) : List (List Byte) :=
  if (first, last) = (s.rowStart, s.rowEnd) then []
  else chunks s.cfg.bufCap 1 (halfBytes first ++ halfBytes last)

/-- The chunks `SetWindow` stages. -/
def windowStaged (s : State) (x y w h : Int) : List (List Byte) :=
  columnStaged s (trunc16 x) (trunc16 (x + w - 1)) ++ rowStaged s (trunc16 y) (trunc16 (y + h - 1))

/-! ### What a finished operation leaves -/

/-- The level of a pin after events: that of its last `DRIVE` (R26). -/
def levelAfter (pin : Pin) (evs : List DispEvent) (level : Bool) : Bool :=
  evs.foldl (fun l e => match e with
    | .drive p v => if p = pin then v else l
    | _ => l) level

/-- The display side after these events all succeeded and these chunks were staged; all the rest as before. -/
def State.shows (s : State) (evs : List DispEvent) (staged : List (List Byte)) : State :=
  { s with
    traceD := s.traceD ++ evs
    sel := levelAfter .sel evs s.sel
    dc := levelAfter .dc evs s.dc
    rst := levelAfter .rst evs s.rst
    tb := stageAll staged s.tb
    busScript := s.busScript.drop (xferCount evs)
    busCount := s.busCount + xferCount evs }

/-- The window cache after `SetWindow(x, y, w, h)` (R153). -/
def State.windowSet (s : State) (x y w h : Int) : State :=
  { s with
    colStart := trunc16 x
    colEnd := trunc16 (x + w - 1)
    rowStart := trunc16 y
    rowEnd := trunc16 (y + h - 1) }

/-- `TB_FILL` is `n`; all the rest as before. -/
def State.filled (s : State) (n : Nat) : State := { s with tbFill := n }

/-- The state a successful `SetWindow` leaves. `TB_FILL` is 0 once a frame was sent (R131). -/
def State.windowed (s : State) (x y w h : Int) : State :=
  ((s.shows (windowEvents s x y w h) (windowStaged s x y w h)).windowSet x y w h).filled
    (if windowEvents s x y w h = [] then s.tbFill else 0)

/-- The state a successful drawing primitive leaves. -/
def State.drawn (s : State) (x y w h : Int) (bytes : List Byte) : State :=
  ((s.shows (paintEvents s x y w h bytes)
    (windowStaged s x y w h ++ chunks s.cfg.bufCap 2 bytes)).windowSet x y w h).filled 0

/-- The response delivered on a port, the port `IDLE` (R21, R85). -/
def State.replied (s : State) (p : Port) (r : Response) : State :=
  match p with
  | .hopD => respondD r s
  | .hopK => respondK r s

/-- `t` is what a display-side operation with the trace `evs` leaves when its `j`-th transaction is the first to fail
(60_exceptions.md R237, R239): the events up to that transaction, `BUS_FAIL` with the bus's value unchanged, `SEL` and
`DC` as drawn, `TB_FILL = 0`, the port `IDLE`. -/
def State.FailedAt (s t : State) (evs : List DispEvent) (j : Nat) (e : BusErr) (d : FailDraw) : Prop :=
  t.traceD = s.traceD ++ throughXfer evs j ∧ t.rspD = s.rspD ++ [Response.busFailed e] ∧
    t.sel = d.sel ∧ t.dc = d.dc ∧ t.tbFill = 0 ∧ t.seqD = .idle

/-- The operation `i` completes in `done`, replying `OK` with no results, when every transaction of its trace `evs`
succeeds, and ends at the first that fails. -/
def State.Runs (s : State) (i : Instr) (evs : List DispEvent) (done : State) : Prop :=
  (s.BusOk (xferCount evs) → exec i s = .next (respondD (Response.done []) done)) ∧
    ∀ j e d, j < xferCount evs → s.BusOk j → s.busAt j = .fail e d →
      ∃ t, exec i s = .next t ∧ s.FailedAt t evs j e d

/-- `t` has the window cache that a failure at the `j`-th transaction leaves of an operation that begins with
`SetWindow(x, y, w, h)` (60_exceptions.md R239 (a), (b)): a pair whose frame was still to come is the old one, a pair whose
frame failed is as drawn, and a pair whose frame succeeded, or needed none, is the new one. -/
def State.WindowFailed (s t : State) (x y w h : Int) (j : Nat) (d : FailDraw) : Prop :=
  let newCols := (trunc16 x, trunc16 (x + w - 1))
  let newRows := (trunc16 y, trunc16 (y + h - 1))
  let colXfers := xferCount (columnEvents s newCols.1 newCols.2)
  let rowXfers := xferCount (rowEvents s newRows.1 newRows.2)
  (t.colStart, t.colEnd) = (if j < colXfers ∧ d.cacheNew = false then (s.colStart, s.colEnd) else newCols) ∧
    (t.rowStart, t.rowEnd) = (if j < colXfers ∨ (j < colXfers + rowXfers ∧ d.cacheNew = false)
      then (s.rowStart, s.rowEnd) else newRows)

/-- The drawing primitive `i` sets the window and streams the pixels (R156); where a transaction fails, the window cache
is what `State.WindowFailed` says. -/
def State.Draws (s : State) (i : Instr) (x y w h : Int) (bytes : List Byte) : Prop :=
  s.Runs i (paintEvents s x y w h bytes) (s.drawn x y w h bytes) ∧
    ∀ j e d t, j < xferCount (paintEvents s x y w h bytes) → s.BusOk j → s.busAt j = .fail e d →
      exec i s = .next t → s.WindowFailed t x y w h j d

/-- The bench after these events all succeeded and these chunks were staged, `TB_FILL` being 0 again (R131). -/
def Bench.shows (b : Bench) (evs : List DispEvent) (staged : List (List Byte)) : Bench :=
  { b with
    sel := levelAfter .sel evs b.sel
    dc := levelAfter .dc evs b.dc
    tb := stageAll staged b.tb
    tbFill := 0
    traceD := b.traceD ++ evs }

/-- The machine after these events all succeeded on the bench, using up as many bus answers. -/
def State.benchShows (s : State) (evs : List DispEvent) (staged : List (List Byte)) : State :=
  { s with
    bench := s.bench.shows evs staged
    busScript := s.busScript.drop (xferCount evs)
    busCount := s.busCount + xferCount evs }

/-- The display command `i`, run alone (log 4), shows `evs` on the bench when every transaction succeeds, and at the
first that fails shows the events up to it, with the bus's value as its outcome, `SEL` and `DC` as drawn and `TB_FILL = 0`
(60_exceptions.md R237, R239). -/
def State.BenchRuns (s : State) (i : Instr) (evs : List DispEvent) (staged : List (List Byte)) : Prop :=
  (s.BusOk (xferCount evs) → exec i s = .next ((s.benchShows evs staged).innerAnswer (Response.done []))) ∧
    ∀ j e d, j < xferCount evs → s.BusOk j → s.busAt j = .fail e d →
      ∃ t, exec i s = .next t ∧ t.bench.traceD = s.bench.traceD ++ throughXfer evs j ∧
        t.innerOut = s.innerOut ++ [Response.busFailed e] ∧
        t.bench.sel = d.sel ∧ t.bench.dc = d.dc ∧ t.bench.tbFill = 0

/-- `n` moves of a port. -/
def advances (p : Port) : Nat → State → State
  | 0, s => s
  | n + 1, s => advances p n (match p with
    | .hopD => advanceD s
    | .hopK => advanceK s)

/-- Two states agree on the keyboard side: the parameters, the latches, the keyboard bus and HOP_K's trace and
responses (20_memory.md R64). -/
def SameKeyboard (s t : State) : Prop :=
  s.cfg = t.cfg ∧ s.altDown = t.altDown ∧ s.ctrlDown = t.ctrlDown ∧ s.kbdScript = t.kbdScript ∧
    s.kbdCount = t.kbdCount ∧ s.traceK = t.traceK ∧ s.rspK = t.rspK

/-! ### The invariant of the machine -/

/-- What the moves still to make may be: transactions of 1 to `BUF_CAP` bytes (R137), and a new Pixel Buffer only as
the one move of a creation that was checked (R211). -/
def Act.fits (cap : Nat) : Act → Prop
  | .chunk bs _ => bs ≠ [] ∧ bs.length ≤ cap
  | .pbNew .. => False
  | _ => True

/-- The moves still to make of an operation in progress. -/
def State.RestOk (s : State) (rest : List Act) : Prop :=
  (∀ a ∈ rest, a.fits s.cfg.bufCap) ∨
    ∃ w h, rest = [.pbNew w h] ∧ s.pbmNext < s.cfg.pbmSlots ∧ s.pbmUsed + u16 w * u16 h ≤ s.cfg.pbmWords

/-- Between moves: TB has `BUF_CAP` bytes (R30), `TB_FILL` is 0 (R31), every Pixel Buffer holds `PB_W * PB_H` words (R29),
and the counters count them within the capacity (R29, R57). -/
structure State.Inv (s : State) : Prop where
  tbSize : Memory.wf s.cfg.bufCap s.tb
  fillZero : s.tbFill = 0
  pbWords : ∀ b ∈ s.pbs, b.data.length = b.words
  nextCounts : s.pbmNext = s.pbs.length
  usedCounts : s.pbmUsed = (s.pbs.map PixelBuffer.words).sum
  slotsBound : s.pbmNext ≤ s.cfg.pbmSlots
  wordsBound : s.pbmUsed ≤ s.cfg.pbmWords
  restOk : ∀ sel k rest reply, s.seqD = .busy sel k rest reply → s.RestOk rest

/-- A latched range lies inside the panel (R169). -/
def rangeInside (first last : Half) (dim : Int) : Prop := (first.toNat : Int) ≤ last.toNat ∧ (last.toNat : Int) ≤ dim - 1

/-- The cached window lies inside the panel (R169). -/
def State.WindowInside (s : State) : Prop :=
  rangeInside s.colStart s.colEnd Config.panelWidth ∧ rangeInside s.rowStart s.rowEnd Config.panelHeight

end Sys2Proof.Machine
end

