-- ==== Sys2Proof/Certificates/Slice0/Obligations.lean ====
section
/-!
DEFINITION. The statements for the provers.
-/

open Sys2Proof Sys2Proof.Machine

/-! ### Encoding and decoding -/

/-- R83, R86, R91, R92: the frame of every well-formed instruction of all four formats decodes to it, with every operand
at every value. -/
def Obligations.EveryFrameDecodesToItsInstruction : Prop :=
  ∀ i : Instr, i.wf = true → decode i.format (encode i) = .ok i

/-- R83, R96: a frame that decodes is the frame of the well-formed instruction it decodes to, in that format: no two
frames of a format mean the same, and no bit of a frame is ignored. -/
def Obligations.DecodedFrameIsTheEncodedOne : Prop :=
  ∀ (f : Format) (bytes : List Byte) (i : Instr), decode f bytes = .ok i →
    i.wf = true ∧ i.format = f ∧ encode i = bytes

/-- Frames written out from the tables of R82, R87, R92 and the examples of R97 and 95_test_vectors.md. -/
def Obligations.WrittenFramesDecode : Prop :=
  decode .hostReq [0x24#8, 0xFF#8, 0xFB#8, 0x00#8, 0x0A#8, 0x00#8, 0x14#8, 0x00#8, 0x14#8, 0xFF#8, 0xFF#8]
      = .ok (.fillRect (BitVec.ofInt 16 (-5)) 10#16 20#16 20#16 0xFFFF#16) ∧
    decode .hostReq [0x12#8, 0x12#8, 0x34#8, 0x00#8, 0x00#8, 0x00#8, 0x02#8] = .ok (.writeRep16 0x1234#16 2#32) ∧
    decode .hostReq [0x13#8, 0x00#8, 0x00#8, 0x00#8, 0x02#8, 0xF8#8, 0x00#8, 0x00#8, 0x1F#8]
      = .ok (.writePackedArray [0xF800#16, 0x001F#16]) ∧
    decode .hostReq [0x02#8, 0x01#8, 0x02#8, 0x03#8] = .ok (.makePacked 1#8 2#8 3#8) ∧
    decode .hostReq [0x31#8] = .ok .kbdLatch ∧
    decode .hostReq [0x43#8, 0x00#8, 0x00#8, 0x02#8, 0x00#8, 0x00#8] = .ok (.pbGet 0#8 2#16 0#16) ∧
    decode .dispCmd [0x2A#8, 0x00#8, 0x00#8, 0x01#8, 0x3F#8] = .ok (.columnAddressSet 0#16 319#16) ∧
    decode .kbdReq [0x09#8] = .ok .kbdReq ∧
    decode .kbdRsp [0x07#8, 0x00#8] = .ok (.kbdRspInvalid 7#8 0#8)

/-- R82: the decoder of host frames rejects exactly the selectors the map does not list, whatever follows them. -/
def Obligations.UnassignedSelectorsAreRejected : Prop :=
  ∀ (sel : Byte) (ops : List Byte),
    decodeHost (sel :: ops) = .error (.unassigned sel) ↔
      sel.toNat ∉ [0x01, 0x02, 0x10, 0x11, 0x12, 0x13, 0x20, 0x21, 0x22, 0x23, 0x24, 0x25, 0x26, 0x27, 0x28, 0x30, 0x31,
        0x40, 0x41, 0x42, 0x43, 0x44]

/-! ### Steps -/

/-- A step runs the decoded instruction. With grain `whole` it is the first pending request, on its channel's port, once
both ports are idle. With grain `event` it is the first pending request of the port whose turn it is, if that port is
idle, and a busy port makes one move (logs 1, 2, 3: the model's own conventions). -/
def Obligations.StepRunsTheDecodedInstruction : Prop :=
  (∀ (s : State) (r : Request) (rs : List Request) (i : Instr),
    s.grain = .whole → s.seqD = .idle → s.seqK = .idle → s.pending = r :: rs → decode r.chan.format r.bytes = .ok i →
      step s = exec i { s with pending := rs, port := r.chan.port }) ∧
  (∀ (s : State) (r : Request) (rs : List Request) (i : Instr),
    s.grain = .event → s.turn = .hopD → s.seqD = .idle → takeFor .hopD s.pending = some (r, rs) →
      decode r.chan.format r.bytes = .ok i →
      step s = exec i { turnTaken s with pending := rs, port := r.chan.port }) ∧
  (∀ (s : State) (r : Request) (rs : List Request) (i : Instr),
    s.grain = .event → s.turn = .hopK → s.seqK = .idle → takeFor .hopK s.pending = some (r, rs) →
      decode r.chan.format r.bytes = .ok i →
      step s = exec i { turnTaken s with pending := rs, port := r.chan.port }) ∧
  (∀ s : State, s.grain = .event → s.turn = .hopD → s.seqD ≠ .idle → step s = .next (advanceD (turnTaken s))) ∧
  (∀ s : State, s.grain = .event → s.turn = .hopK → s.seqK ≠ .idle → step s = .next (advanceK (turnTaken s)))

/-- R93: an unassigned selector, or one the port does not accept, completes with `ILLEGAL_OP` carrying the selector, with
no event and no state change; a frame shorter than its selector's format is not accepted. That a short frame is stuck
under a fault, and that its length is judged before the port it stands on, so that a short frame of a selector its port
does not accept is stuck and not `ILLEGAL_OP`, is the model's reading (log 9, DEDUCED). -/
def Obligations.IllegalSelectorsAndShortFrames : Prop :=
  (∀ (s : State) (c : Channel) (sel : Byte) (ops : List Byte) (rs : List Request),
    (c = .hopD ∨ c = .hopK) → s.grain = .whole → s.seqD = .idle → s.seqK = .idle →
      s.pending = ⟨c, sel :: ops⟩ :: rs → decodeHost (sel :: ops) = .error (.unassigned sel) →
      step s = .next ({ s with pending := rs, port := c.port }.replied c.port ⟨.illegalOp, [sel], none⟩)) ∧
  (∀ (s : State) (i : Instr) (p : Port), i.format = .hostReq → s.Ready p → acceptedOn i p = false →
      exec i s = .next (s.replied p ⟨.illegalOp, [i.code], none⟩)) ∧
  (∀ (s : State) (c : Channel) (i : Instr) (n : Nat) (rs : List Request),
    (c = .hopD ∨ c = .hopK) → s.grain = .whole → s.seqD = .idle → s.seqK = .idle → i.format = .hostReq → i.wf = true →
      n < (encode i).length → s.pending = ⟨c, (encode i).take n⟩ :: rs → step s = .fault .shortFrame)

/-- R250 (a): a busy port accepts no host operation. -/
def Obligations.BusyPortAcceptsNothing : Prop :=
  ∀ (i : Instr) (s : State), i.format = .hostReq → s.portIsBusy = true → exec i s = .refused .portBusy

/-! ### Reset and the machine's invariants -/

/-- R35: the reset value of every piece of the block's state that has one; TB has `BUF_CAP` bytes, whose contents are
unspecified. R35 gives `RST` a value only if `HAS_RST`: that the model holds its level at 1 without a reset line too is the
model's choice (log 19, DESIGN CHOICE). -/
def Obligations.ResetState : Prop :=
  State.reset.seqD = .idle ∧ State.reset.seqK = .idle ∧
    State.reset.colStart = 0#16 ∧ State.reset.colEnd = 0#16 ∧ State.reset.rowStart = 0#16 ∧ State.reset.rowEnd = 0#16 ∧
    State.reset.sel = true ∧ State.reset.dc = true ∧ State.reset.rst = true ∧
    State.reset.altDown = false ∧ State.reset.ctrlDown = false ∧
    State.reset.tbFill = 0 ∧ State.reset.tb.length = State.reset.cfg.bufCap ∧ State.reset.pbmNext = 0 ∧ State.reset.pbmUsed = 0 ∧ State.reset.pbs = []

/-- The state after reset meets the invariant that every step keeps. -/
def Obligations.ResetMeetsInvariant : Prop := State.reset.Inv

/-- R29 to R31, R57, R137: from every state that meets the invariant, a step ends in one that meets it. -/
def Obligations.EveryStepKeepsInvariant : Prop :=
  ∀ s t : State, s.Inv → step s = .next t → t.Inv

/-- R57, R11: no step changes the parameters or decreases `PBM_NEXT` or `PBM_USED`, and a Pixel Buffer keeps its handle
and its size for ever. -/
def Obligations.EveryStepKeepsParametersAndBuffers : Prop :=
  ∀ s t : State, step s = .next t →
    t.cfg = s.cfg ∧ s.pbmNext ≤ t.pbmNext ∧ s.pbmUsed ≤ t.pbmUsed ∧
      ∀ (h : Nat) (b : PixelBuffer), s.pbs[h]? = some b →
        ∃ b', t.pbs[h]? = some b' ∧ b'.w = b.w ∧ b'.h = b.h ∧ b'.data.length = b.data.length

/-- R51, R58: if every transaction of the trace so far has 1 to `BUF_CAP` bytes, so it has after a step. -/
def Obligations.EveryTransactionFitsTheBuffer : Prop :=
  ∀ s t : State, s.Inv → (∀ bs, .xfer bs ∈ s.traceD → 1 ≤ bs.length ∧ bs.length ≤ s.cfg.bufCap) → step s = .next t →
    ∀ bs, .xfer bs ∈ t.traceD → 1 ≤ bs.length ∧ bs.length ≤ t.cfg.bufCap

/-! ### PFC -/

/-- R121: `TO_PACKED` replies with the truncated channels packed, on either port, and writes no state. -/
def Obligations.ToPackedTruncatesAndPacks : Prop :=
  ∀ (r g b a : Byte) (s : State) (p : Port), s.Ready p →
    exec (.toPacked r g b a) s =
      .next (s.replied p ⟨.ok, halfBytes (BitVec.ofNat 16 (r.toNat / 8 + 32 * (g.toNat / 4) + 2048 * (b.toNat / 8))), none⟩)

/-- R122: `MAKE_PACKED` replies with the masked channels packed, on either port, and writes no state. -/
def Obligations.MakePackedMasksAndPacks : Prop :=
  ∀ (r g b : Byte) (s : State) (p : Port), s.Ready p →
    exec (.makePacked r g b) s =
      .next (s.replied p ⟨.ok, halfBytes (BitVec.ofNat 16 (r.toNat % 32 + 32 * (g.toNat % 64) + 2048 * (b.toNat % 32))), none⟩)

/-- R123: the result of `TO_PACKED` depends only on the three channels, and is that of `MAKE_PACKED` on the quantized
channels. -/
def Obligations.ToPackedIsMakePackedOfQuantized : Prop :=
  ∀ (r g b a a' : Byte) (s : State) (p : Port), s.Ready p →
    exec (.toPacked r g b a) s = exec (.toPacked r g b a') s ∧
      exec (.makePacked (r >>> 3) (g >>> 2) (b >>> 3)) s = exec (.toPacked r g b a) s

/-! ### BTB -/

/-- R132: `WRITE_BYTE` is one transaction of length 1. That the byte does not pass through TB is the model's choice
(log 10), and that a failure leaves `SEL` and `DC` as drawn is its reading of R239 (c) (log 15, DEDUCED). -/
def Obligations.WriteByteIsOneTransaction : Prop :=
  ∀ (b : Byte) (s : State), s.Ready .hopD →
    s.Runs (.writeByte b) [.xfer [b]] ((s.shows [.xfer [b]] []).filled 0)

/-- R133: `WRITE_BYTES` sends its bytes in chunks of at most `BUF_CAP`. That a failure leaves `SEL` and `DC` as drawn is
the model's reading of R239 (c) (log 15, DEDUCED). -/
def Obligations.WriteBytesStreamsItsBytes : Prop :=
  ∀ (bs : List Byte) (s : State), s.Ready .hopD →
    s.Runs (.writeBytes bs) ((chunks s.cfg.bufCap 1 bs).map .xfer)
      ((s.shows ((chunks s.cfg.bufCap 1 bs).map .xfer) (chunks s.cfg.bufCap 1 bs)).filled 0)

/-- R134: `WRITE_REP16` sends `count` big-endian copies of its value, in chunks of whole values. That a failure leaves
`SEL` and `DC` as drawn is the model's reading of R239 (c) (log 15, DEDUCED). -/
def Obligations.WriteRep16StreamsItsCopies : Prop :=
  ∀ (v : Half) (n : Count) (s : State), s.Ready .hopD →
    let payload := (List.replicate n.toNat [hi8 v, lo8 v]).flatten
    s.Runs (.writeRep16 v n) ((chunks s.cfg.bufCap 2 payload).map .xfer)
      ((s.shows ((chunks s.cfg.bufCap 2 payload).map .xfer) (chunks s.cfg.bufCap 2 payload)).filled 0)

/-- R135: `WRITE_PACKED_ARRAY` sends its colours as big-endian pairs, in chunks of whole values. That a failure leaves
`SEL` and `DC` as drawn is the model's reading of R239 (c) (log 15, DEDUCED). -/
def Obligations.WritePackedArrayStreamsItsColours : Prop :=
  ∀ (cs : List Half) (s : State), s.Ready .hopD →
    let payload := cs.flatMap (fun c => [hi8 c, lo8 c])
    s.Runs (.writePackedArray cs) ((chunks s.cfg.bufCap 2 payload).map .xfer)
      ((s.shows ((chunks s.cfg.bufCap 2 payload).map .xfer) (chunks s.cfg.bufCap 2 payload)).filled 0)

/-- R131: `floor(L / C)` transactions of `C` bytes, then one of `L mod C` bytes if that is not 0. -/
def Obligations.ChunkLengths : Prop :=
  ∀ (cap unit : Nat) (bs : List Byte), 0 < unit → unit ≤ cap →
    let c := unit * (cap / unit)
    (chunks cap unit bs).map List.length =
      List.replicate (bs.length / c) c ++ (if bs.length % c = 0 then [] else [bs.length % c])

/-- R137: whatever the bus answers, every transaction of a BTB operation has 1 to `BUF_CAP` bytes, its transactions carry
the payload from its first byte on and nothing else, all of it where the operation succeeds, and those of a 16-bit payload
have even length. -/
def Obligations.TransportInvariants : Prop :=
  ∀ (i : Instr) (payload : List Byte) (s t : State), s.Ready .hopD → exec i s = .next t →
    ((∃ b, i = .writeByte b ∧ payload = [b]) ∨ (∃ bs, i = .writeBytes bs ∧ payload = bs) ∨
      (∃ v n, i = .writeRep16 v n ∧ payload = repeatHalf v n.toNat) ∨
      (∃ cs, i = .writePackedArray cs ∧ payload = pairBytes cs)) →
    ∃ xs : List (List Byte), t.traceD = s.traceD ++ xs.map .xfer ∧
      (∀ x ∈ xs, 1 ≤ x.length ∧ x.length ≤ s.cfg.bufCap) ∧
      xs.flatten <+: payload ∧
      (t.rspD = s.rspD ++ [⟨.ok, [], none⟩] → xs.flatten = payload) ∧
      (((∃ v n, i = .writeRep16 v n) ∨ ∃ cs, i = .writePackedArray cs) → ∀ x ∈ xs, x.length % 2 = 0)

/-! ### DPE: the window cache -/

/-- R153, R239 (a), (b): `SET_WINDOW` sends the frame of exactly the axes that differ from the cache, column first, and
then caches the window; when a transaction of an axis's frame fails, that axis's pair is its old or its new value, and
the other axis is done or untouched. -/
def Obligations.SetWindowSendsTheChangedAxes : Prop :=
  ∀ (x y w h : Half) (s : State), s.Ready .hopD →
    let xs := BitVec.ofInt 16 x.toInt
    let xe := BitVec.ofInt 16 (x.toInt + w.toInt - 1)
    let ys := BitVec.ofInt 16 y.toInt
    let ye := BitVec.ofInt 16 (y.toInt + h.toInt - 1)
    let colEvs := if (xs, xe) = (s.colStart, s.colEnd) then []
      else frameEvents s.cfg.bufCap 0x2A#8 [hi8 xs, lo8 xs, hi8 xe, lo8 xe]
    let rowEvs := if (ys, ye) = (s.rowStart, s.rowEnd) then []
      else frameEvents s.cfg.bufCap 0x2B#8 [hi8 ys, lo8 ys, hi8 ye, lo8 ye]
    s.Runs (.setWindow x y w h) (colEvs ++ rowEvs) (s.windowed x.toInt y.toInt w.toInt h.toInt) ∧
    ((s.windowed x.toInt y.toInt w.toInt h.toInt).colStart = xs ∧
      (s.windowed x.toInt y.toInt w.toInt h.toInt).colEnd = xe ∧
      (s.windowed x.toInt y.toInt w.toInt h.toInt).rowStart = ys ∧
      (s.windowed x.toInt y.toInt w.toInt h.toInt).rowEnd = ye ∧
      (s.windowed x.toInt y.toInt w.toInt h.toInt).traceD = s.traceD ++ (colEvs ++ rowEvs)) ∧
    ∀ j e d t, j < xferCount (colEvs ++ rowEvs) → s.BusOk j → s.busAt j = .fail e d →
      exec (.setWindow x y w h) s = .next t →
      if j < xferCount colEvs then
        (t.colStart, t.colEnd) = (if d.cacheNew then (xs, xe) else (s.colStart, s.colEnd)) ∧
          (t.rowStart, t.rowEnd) = (s.rowStart, s.rowEnd)
      else (t.colStart, t.colEnd) = (xs, xe) ∧
        (t.rowStart, t.rowEnd) = (if d.cacheNew then (ys, ye) else (s.rowStart, s.rowEnd))

/-- R154: the same window twice is a cache hit, which emits nothing and changes nothing; changing the column range, or
the row range, then runs as exactly that axis's command. -/
def Obligations.SameWindowTwiceIsACacheHit : Prop :=
  ∀ (x y w h x' w' y' h' : Half) (s t : State), s.Ready .hopD →
    s.BusOk (xferCount (opEvents (.setWindow x y w h) s)) → exec (.setWindow x y w h) s = .next t →
    exec (.setWindow x y w h) t = .next (respondD (Response.done []) t) ∧
    (((trunc16 x'.toInt, trunc16 (x'.toInt + w'.toInt - 1)) ≠ (trunc16 x.toInt, trunc16 (x.toInt + w.toInt - 1))) →
      t.Runs (.setWindow x' y w' h)
        (frameEvents s.cfg.bufCap 0x2A#8
          (halfBytes (trunc16 x'.toInt) ++ halfBytes (trunc16 (x'.toInt + w'.toInt - 1))))
        (t.windowed x'.toInt y.toInt w'.toInt h.toInt)) ∧
    (((trunc16 y'.toInt, trunc16 (y'.toInt + h'.toInt - 1)) ≠ (trunc16 y.toInt, trunc16 (y.toInt + h.toInt - 1))) →
      t.Runs (.setWindow x y' w h')
        (frameEvents s.cfg.bufCap 0x2B#8
          (halfBytes (trunc16 y'.toInt) ++ halfBytes (trunc16 (y'.toInt + h'.toInt - 1))))
        (t.windowed x.toInt y'.toInt w.toInt h'.toInt))

/-! ### DPE: drawing -/

/-- R157, R239 (a), (b): a pixel on the panel is drawn in its 1-by-1 window; a pixel off the panel is a no-op. -/
def Obligations.SetPixelDrawsOrDrops : Prop :=
  ∀ (x y c : Half) (s : State), s.Ready .hopD →
    if x.toInt < 0 ∨ 320 ≤ x.toInt ∨ y.toInt < 0 ∨ 320 ≤ y.toInt then
      exec (.setPixel x y c) s = .next (respondD (Response.done []) s)
    else s.Draws (.setPixel x y c) x.toInt y.toInt 1 1 [hi8 c, lo8 c]

/-- R158, R239 (a), (b): a horizontal line between its clamped and ordered endpoints; off the panel's rows, or of no length, a no-op. -/
def Obligations.DrawHLineClampsAndDraws : Prop :=
  ∀ (x0 x1 y c : Half) (s : State), s.Ready .hopD →
    let p := min (max x0.toInt 0) 319
    let q := min (max x1.toInt 0) 319
    let len := max p q - min p q + (if s.cfg.lineLenInclusive then 1 else 0)
    if y.toInt < 0 ∨ 320 ≤ y.toInt ∨ len ≤ 0 then
      exec (.drawHLine x0 x1 y c) s = .next (respondD (Response.done []) s)
    else
      let bytes := (List.replicate len.toNat [hi8 c, lo8 c]).flatten
      s.Draws (.drawHLine x0 x1 y c) (min p q) y.toInt len 1 bytes

/-- R159, R239 (a), (b): a vertical line between its clamped and ordered endpoints; off the panel's columns, or of no
length, a no-op. -/
def Obligations.DrawVLineClampsAndDraws : Prop :=
  ∀ (x y0 y1 c : Half) (s : State), s.Ready .hopD →
    let p := min (max y0.toInt 0) 319
    let q := min (max y1.toInt 0) 319
    let len := max p q - min p q + (if s.cfg.lineLenInclusive then 1 else 0)
    if x.toInt < 0 ∨ 320 ≤ x.toInt ∨ len ≤ 0 then
      exec (.drawVLine x y0 y1 c) s = .next (respondD (Response.done []) s)
    else
      let bytes := (List.replicate len.toNat [hi8 c, lo8 c]).flatten
      s.Draws (.drawVLine x y0 y1 c) x.toInt (min p q) 1 len bytes

/-- R160, R239 (a), (b): the rectangle that is left after the origin clamp and, with `RECT_CLIP_FAR`, the far clip, is filled; a
rectangle that is left with no size is a no-op. -/
def Obligations.FillRectClipsAndFills : Prop :=
  ∀ (x y w h c : Half) (s : State), s.Ready .hopD →
    let ox := max x.toInt 0
    let oy := max y.toInt 0
    let w1 := if x.toInt < 0 then w.toInt + x.toInt else w.toInt
    let h1 := if y.toInt < 0 then h.toInt + y.toInt else h.toInt
    let w2 := if s.cfg.rectClipFar then min w1 (320 - ox) else w1
    let h2 := if s.cfg.rectClipFar then min h1 (320 - oy) else h1
    if w2 ≤ 0 ∨ h2 ≤ 0 then exec (.fillRect x y w h c) s = .next (respondD (Response.done []) s)
    else
      let bytes := (List.replicate (w2 * h2).toNat [hi8 c, lo8 c]).flatten
      s.Draws (.fillRect x y w h c) ox oy w2 h2 bytes

/-- R161, R239 (a), (b): an unknown handle is `ILLEGAL_OP`; an empty bitmap, a negative origin or a far edge on or past the panel's is a
no-op; else the whole buffer is sent in index order. -/
def Obligations.BlitDrawsOrRejects : Prop :=
  ∀ (x y : Half) (pb : Byte) (s : State), s.Ready .hopD →
    (s.pbmNext ≤ pb.toNat → exec (.blit x y pb) s = .next (respondD ⟨.illegalOp, [0x25#8], none⟩ s)) ∧
    ∀ b, pb.toNat < s.pbmNext → s.pbs[pb.toNat]? = some b →
      if b.w = 0#16 ∨ b.h = 0#16 ∨ x.toInt < 0 ∨ y.toInt < 0 ∨ 320 ≤ x.toInt + b.w.toNat ∨ 320 ≤ y.toInt + b.h.toNat then
        exec (.blit x y pb) s = .next (respondD (Response.done []) s)
      else
        let bytes := b.data.flatMap (fun c => [hi8 c, lo8 c])
        s.Draws (.blit x y pb) x.toInt y.toInt b.w.toNat b.h.toNat bytes

/-- R163: with a reset line `R0 W(64) R1 W(140)`, else the software-reset frame and the settle delay. That
the opcode does not pass through TB, so that the frame leaves TB as it was, is the model's choice (log 10, DESIGN
CHOICE). -/
def Obligations.ResetPulsesOrCommands : Prop :=
  ∀ s : State, s.Ready .hopD →
    if s.cfg.hasRst then
      exec .reset s = .next (respondD (Response.done [])
        (s.shows [.drive .rst false, .wait 64, .drive .rst true, .wait 140] []))
    else s.Runs .reset (frameEvents s.cfg.bufCap 0x01#8 [] ++ [.wait 140])
      ((s.shows (frameEvents s.cfg.bufCap 0x01#8 [] ++ [.wait 140]) []).filled 0)

/-- R164: the eleven steps of the initialization sequence, in order. That no opcode passes through TB, so that the frames
without data leave TB as it was, is the model's choice (log 10, DESIGN CHOICE). -/
def Obligations.InitSendsTheSequence : Prop :=
  ∀ s : State, s.Ready .hopD →
    let f := frameEvents s.cfg.bufCap
    let ch := chunks s.cfg.bufCap 1
    let evs := f 0xC0#8 s.cfg.initC0 ++ f 0xC1#8 s.cfg.initC1 ++ f 0xC5#8 s.cfg.initC5 ++ f 0x3A#8 s.cfg.init3A
      ++ f 0xB1#8 s.cfg.initB1 ++ f 0xB6#8 s.cfg.initB6 ++ f 0x21#8 [] ++ f 0x36#8 s.cfg.init36 ++ f 0x11#8 []
      ++ [.wait 120] ++ f 0x29#8 []
    s.Runs .init evs
      ((s.shows evs (ch s.cfg.initC0 ++ ch s.cfg.initC1 ++ ch s.cfg.initC5 ++ ch s.cfg.init3A ++ ch s.cfg.initB1
        ++ ch s.cfg.initB6 ++ ch s.cfg.init36)).filled 0)

/-- R165: `SIZE` replies 320 and 320 and writes no state. -/
def Obligations.SizeRepliesThePanel : Prop :=
  ∀ s : State, s.Ready .hopD → exec .size s = .next (respondD ⟨.ok, [0x01#8, 0x40#8, 0x01#8, 0x40#8], none⟩ s)

/-- R151: after a DPE operation that completes with `OK` and sent a frame, `SEL = 1` and `DC = 1`; one that sent no
event leaves both unchanged. -/
def Obligations.FramesEndDeselectedInDataMode : Prop :=
  ∀ (i : Instr) (s t : State), s.Ready .hopD → s.BusOk (xferCount (opEvents i s)) → exec i s = .next t →
    ((∃ x y w h, i = .setWindow x y w h) ∨ (∃ x y c, i = .setPixel x y c) ∨ (∃ a b y c, i = .drawHLine a b y c) ∨
      (∃ x a b c, i = .drawVLine x a b c) ∨ (∃ x y w h c, i = .fillRect x y w h c) ∨ (∃ x y pb, i = .blit x y pb) ∨
      i = .reset ∨ i = .init ∨ i = .size) →
    ((∃ bs, .xfer bs ∈ opEvents i s) → t.sel = true ∧ t.dc = true) ∧
      (opEvents i s = [] → t.sel = s.sel ∧ t.dc = s.dc)

/-- R28, R94, R151: whatever the bus answers, each transaction of a DPE operation is made with `SEL = 0`, and one made with
`DC = 0` is one byte, an opcode that R87 gives that operation; and a row of an inner format, run alone (log 4), emits
nothing, drives no pin and writes no latch of the block. -/
def Obligations.EveryDisplayTransactionIsFramed : Prop :=
  (∀ (i : Instr) (s t : State), i.format ≠ .hostReq → exec i s = .next t →
    t.traceD = s.traceD ∧ t.sel = s.sel ∧ t.dc = s.dc ∧ t.rst = s.rst ∧ t.traceK = s.traceK ∧
      t.altDown = s.altDown ∧ t.ctrlDown = s.ctrlDown) ∧
  ∀ (i : Instr) (s t : State), s.Ready .hopD → exec i s = .next t →
    ((∃ x y w h, i = .setWindow x y w h) ∨ (∃ x y c, i = .setPixel x y c) ∨ (∃ a b y c, i = .drawHLine a b y c) ∨
      (∃ x a b c, i = .drawVLine x a b c) ∨ (∃ x y w h c, i = .fillRect x y w h c) ∨ (∃ x y pb, i = .blit x y pb) ∨
      i = .reset ∨ i = .init ∨ i = .size) →
    ∀ before bs after, t.traceD = s.traceD ++ before ++ .xfer bs :: after →
      levelAfter .sel before s.sel = false ∧
        (levelAfter .dc before s.dc = false → ∃ op : Byte, bs = [op] ∧
          op ∈ (match i with
            | .reset => [0x01#8]
            | .init => [0xC0#8, 0xC1#8, 0xC5#8, 0x3A#8, 0xB1#8, 0xB6#8, 0x21#8, 0x36#8, 0x11#8, 0x29#8]
            | .setWindow .. => [0x2A#8, 0x2B#8]
            | _ => [0x2A#8, 0x2B#8, 0x2C#8]))

/-- R155: no operation but `SET_WINDOW` and the drawing primitives writes the window cache, whatever the bus answers. -/
def Obligations.OnlySetWindowWritesTheCache : Prop :=
  ∀ (i : Instr) (s t : State), exec i s = .next t →
    (∀ x y w h, i ≠ .setWindow x y w h) → (∀ x y c, i ≠ .setPixel x y c) → (∀ a b y c, i ≠ .drawHLine a b y c) →
    (∀ x a b c, i ≠ .drawVLine x a b c) → (∀ x y w h c, i ≠ .fillRect x y w h c) → (∀ x y pb, i ≠ .blit x y pb) →
    s.grain = .whole →
      t.colStart = s.colStart ∧ t.colEnd = s.colEnd ∧ t.rowStart = s.rowStart ∧ t.rowEnd = s.rowEnd

/-- R169: with `RECT_CLIP_FAR`, a window inside the panel stays inside through every operation but the host's own
`SET_WINDOW`, whether its transactions succeed or fail. -/
def Obligations.PrimitivesKeepTheWindowInside : Prop :=
  ∀ (i : Instr) (s t : State), s.grain = .whole → s.cfg.rectClipFar = true → s.WindowInside →
    (∀ x y w h, i ≠ .setWindow x y w h) → exec i s = .next t → t.WindowInside

/-- R66, R67, R156, R160, R169: to the model's observer of the bus (log 14) whose latched window is the cached one, a successful
`FILL_RECT` with `RECT_CLIP_FAR` paints each pixel of the clipped rectangle once, row by row, and nothing else, and its
latched window is again the cached one. -/
def Obligations.FillRectPaintsExactlyItsRectangle : Prop :=
  ∀ (x y w h c : Half) (s t : State) (o : Observer), s.Ready .hopD → s.cfg.rectClipFar = true →
    o.cols = some (s.colStart, s.colEnd) → o.rows = some (s.rowStart, s.rowEnd) →
    s.BusOk (xferCount (opEvents (.fillRect x y w h c) s)) → exec (.fillRect x y w h c) s = .next t →
    let a := rectAxis true x.toInt w.toInt 320
    let b := rectAxis true y.toInt h.toInt 320
    ∃ evs, t.traceD = s.traceD ++ evs ∧
      (o.watch evs).painted = o.painted ++ (List.range (a.2.toNat * b.2.toNat)).map
        (fun k => (a.1.toNat + k % a.2.toNat, b.1.toNat + k / a.2.toNat, c)) ∧
      (o.watch evs).cols = some (t.colStart, t.colEnd) ∧ (o.watch evs).rows = some (t.rowStart, t.rowEnd)

/-- R70: the model's observer of the bus (log 14) sees the same for every split of a payload into transactions, and the
transport's chunks, for every capacity and unit, are such splits. -/
def Obligations.ChunkingIsInvisible : Prop :=
  (∀ (o : Observer) (xs ys : List (List Byte)), xs.flatten = ys.flatten →
    o.watch (xs.map .xfer) = o.watch (ys.map .xfer)) ∧
  ∀ (o : Observer) (cap unit : Nat) (bs : List Byte),
    o.watch ((chunks cap unit bs).map .xfer) = o.watch [.xfer bs]

/-- R69, R268: after `RESET`, completed or failed, the model's observer (log 14) knows neither range, whatever it knew
before; and while it lacks a range, a drawing primitive that does not itself send that axis's frame gives no pixel a
place, whichever primitive it is and whatever it sends for the other axis. -/
def Obligations.ObserverForgetsAtReset : Prop :=
  (∀ (s t : State) (o : Observer) (r : Response), s.Ready .hopD → exec .reset s = .next t → t.rspD = s.rspD ++ [r] →
    (o.operation (t.traceD.drop s.traceD.length) r.status).cols = none ∧
      (o.operation (t.traceD.drop s.traceD.length) r.status).rows = none ∧
      (o.operation (t.traceD.drop s.traceD.length) r.status).painted = []) ∧
  ∀ (i : Instr) (s t : State) (o : Observer) (x y w h : Int) (bytes : List Byte), s.Ready .hopD → exec i s = .next t →
    ((∃ x y c, i = .setPixel x y c) ∨ (∃ a b y c, i = .drawHLine a b y c) ∨ (∃ x a b c, i = .drawVLine x a b c) ∨
      (∃ x y w h c, i = .fillRect x y w h c) ∨ ∃ x y pb, i = .blit x y pb) →
    t.traceD = s.traceD ++ paintEvents s x y w h bytes → 2 ≤ bytes.length →
    ((o.cols = none ∧ columnEvents s (trunc16 x) (trunc16 (x + w - 1)) = []) ∨
      (o.rows = none ∧ rowEvents s (trunc16 y) (trunc16 (y + h - 1)) = [])) →
      (o.operation (t.traceD.drop s.traceD.length) .ok).painted = []

/-- R66, R239 (b), R268: when a transaction of a `SET_WINDOW` fails, the model's observer (log 14: its own reading, as in
program P5 of 95_test_vectors.md) no longer knows the range of the axis whose frame failed, and knows the other axis's
range as last latched. -/
def Obligations.ObserverLosesTheFailedAxis : Prop :=
  ∀ (x y w h : Half) (s t : State) (o : Observer) (j : Nat) (e : BusErr) (d : FailDraw), s.Ready .hopD →
    let xs := trunc16 x.toInt
    let xe := trunc16 (x.toInt + w.toInt - 1)
    let colEvs := columnEvents s xs xe
    j < xferCount (opEvents (.setWindow x y w h) s) → s.BusOk j → s.busAt j = .fail e d →
    exec (.setWindow x y w h) s = .next t →
      let after := o.operation (t.traceD.drop s.traceD.length) .busFail
      if j < xferCount colEvs then after.cols = none ∧ after.rows = o.rows
      else after.rows = none ∧ after.cols = if colEvs = [] then o.cols else some (xs, xe)

/-! ### KED -/

/-- R191, R192: one transaction per poll; each tag does what the table says; an error changes no latch. That the key code 0
of an error is what `Response.keyCode` reads from a response whose frame carries none is the model's reading (log 18,
DEDUCED). -/
def Obligations.KbdPollClassifies : Prop :=
  ∀ s : State, s.Ready .hopK →
    let polled : State := { s with
      traceK := s.traceK ++ [.i2c s.cfg.kbdAddr [0x09#8] 2], kbdScript := s.kbdScript.tail, kbdCount := s.kbdCount + 1 }
    (∀ e, s.kbdAnswer = .fail e → exec .kbdPoll s = .next (respondK ⟨.busFail, [], some e⟩ polled) ∧
      Response.keyCode ⟨.busFail, [], some e⟩ = 0#8) ∧
    ∀ tag key, s.kbdAnswer = .bytes tag key →
      exec .kbdPoll s = .next (
        if tag.toNat = 0 then respondK ⟨.ok, [0#8], none⟩ polled
        else if tag.toNat = 1 then
          if key = 0xA1#8 then respondK ⟨.ok, [0#8], none⟩ { polled with altDown := true }
          else if key = s.cfg.keyCtrl then respondK ⟨.ok, [0#8], none⟩ { polled with ctrlDown := true }
          else respondK ⟨.ok, [key], none⟩ polled
        else if tag.toNat = 2 then
          if key = 0xA1#8 then respondK ⟨.ok, [0#8], none⟩ { polled with altDown := true }
          else if key = s.cfg.keyCtrl then respondK ⟨.ok, [0#8], none⟩ { polled with ctrlDown := true }
          else respondK ⟨.ok, [0#8], none⟩ polled
        else if tag.toNat = 3 then
          if key = 0xA1#8 then respondK ⟨.ok, [0#8], none⟩ { polled with altDown := false }
          else if key = s.cfg.keyCtrl then respondK ⟨.ok, [0#8], none⟩ { polled with ctrlDown := false }
          else respondK ⟨.ok, [0#8], none⟩ polled
        else respondK ⟨.decodeFail, [tag, key], none⟩ polled) ∧
      Response.keyCode ⟨.decodeFail, [tag, key], none⟩ = 0#8

/-- R194: `KBD_LATCH` replies bit 0 = Alt, bit 1 = Control, bits 7:2 = 0, and writes no state. -/
def Obligations.KbdLatchRepliesTheLatches : Prop :=
  ∀ s : State, s.Ready .hopK →
    exec .kbdLatch s = .next (respondK
      ⟨.ok, [BitVec.ofNat 8 ((if s.altDown then 1 else 0) + (if s.ctrlDown then 2 else 0))], none⟩ s)

/-- R64, R190: what HOP_K does depends on the keyboard side alone: two states that agree on it, and otherwise differ in
anything, agree on it after the same operation. -/
def Obligations.KeyboardSideSeesOnlyItself : Prop :=
  ∀ (i : Instr) (s s' t t' : State), i.format = .hostReq → s.Ready .hopK → s'.Ready .hopK → SameKeyboard s s' →
    exec i s = .next t → exec i s' = .next t' → SameKeyboard t t'

/-! ### PBM -/

/-- R211: `PB_CREATE` takes the next handle and fills the buffer with zeros, or replies `NO_SPACE` and changes nothing. -/
def Obligations.PbCreateAllocatesOrRefuses : Prop :=
  ∀ (w h : Half) (s : State), s.Ready .hopD → s.Inv →
    if s.pbmNext = s.cfg.pbmSlots ∨ s.cfg.pbmWords < s.pbmUsed + w.toNat * h.toNat then
      exec (.pbCreate w h) s = .next (respondD ⟨.noSpace, [], none⟩ s)
    else
      exec (.pbCreate w h) s = .next (respondD ⟨.ok, [BitVec.ofNat 8 s.pbmNext], none⟩
        { s with
          pbs := s.pbs ++ [⟨w, h, List.replicate (w.toNat * h.toNat) 0#16⟩]
          pbmNext := s.pbmNext + 1
          pbmUsed := s.pbmUsed + w.toNat * h.toNat })

/-- R212: `PB_SET` writes the one word of its pixel; outside the buffer it is a no-op; an unknown handle is an error. -/
def Obligations.PbSetWritesOneWord : Prop :=
  ∀ (pb : Byte) (x y c : Half) (s : State), s.Ready .hopD →
    (s.pbmNext ≤ pb.toNat → exec (.pbSet pb x y c) s = .next (respondD ⟨.illegalOp, [0x41#8], none⟩ s)) ∧
    ∀ b, pb.toNat < s.pbmNext → s.pbs[pb.toNat]? = some b →
      if x.toInt < 0 ∨ (b.w.toNat : Int) ≤ x.toInt ∨ y.toInt < 0 ∨ (b.h.toNat : Int) ≤ y.toInt then
        exec (.pbSet pb x y c) s = .next (respondD ⟨.ok, [], none⟩ s)
      else
        exec (.pbSet pb x y c) s = .next (respondD ⟨.ok, [], none⟩
          { s with pbs := s.pbs.set pb.toNat ⟨b.w, b.h, b.data.set (y.toInt * b.w.toNat + x.toInt).toNat c⟩ })

/-- R213: `PB_FILL` writes every word of its buffer; an unknown handle is an error. -/
def Obligations.PbFillWritesEveryWord : Prop :=
  ∀ (pb : Byte) (c : Half) (s : State), s.Ready .hopD → s.Inv →
    (s.pbmNext ≤ pb.toNat → exec (.pbFill pb c) s = .next (respondD ⟨.illegalOp, [0x42#8], none⟩ s)) ∧
    ∀ b, pb.toNat < s.pbmNext → s.pbs[pb.toNat]? = some b →
      exec (.pbFill pb c) s = .next (respondD ⟨.ok, [], none⟩
        { s with pbs := s.pbs.set pb.toNat ⟨b.w, b.h, List.replicate (b.w.toNat * b.h.toNat) c⟩ })

/-- R214: `PB_GET` replies the word of its pixel and writes no state; a pixel outside the buffer or an unknown handle is
an error. -/
def Obligations.PbGetRepliesTheWord : Prop :=
  ∀ (pb : Byte) (x y : Half) (s : State), s.Ready .hopD → s.Inv →
    (s.pbmNext ≤ pb.toNat → exec (.pbGet pb x y) s = .next (respondD ⟨.illegalOp, [0x43#8], none⟩ s)) ∧
    ∀ b, pb.toNat < s.pbmNext → s.pbs[pb.toNat]? = some b →
      if x.toInt < 0 ∨ (b.w.toNat : Int) ≤ x.toInt ∨ y.toInt < 0 ∨ (b.h.toNat : Int) ≤ y.toInt then
        exec (.pbGet pb x y) s = .next (respondD ⟨.illegalOp, [0x43#8], none⟩ s)
      else ∃ v, b.data[(y.toInt * b.w.toNat + x.toInt).toNat]? = some v ∧
        exec (.pbGet pb x y) s = .next (respondD ⟨.ok, [hi8 v, lo8 v], none⟩ s)

/-- R215: `PB_SIZE` replies the buffer's size and writes no state; an unknown handle is an error. -/
def Obligations.PbSizeRepliesTheSize : Prop :=
  ∀ (pb : Byte) (s : State), s.Ready .hopD →
    (s.pbmNext ≤ pb.toNat → exec (.pbSize pb) s = .next (respondD ⟨.illegalOp, [0x44#8], none⟩ s)) ∧
    ∀ b, pb.toNat < s.pbmNext → s.pbs[pb.toNat]? = some b →
      exec (.pbSize pb) s = .next (respondD ⟨.ok, [hi8 b.w, lo8 b.w, hi8 b.h, lo8 b.h], none⟩ s)

/-- R56, R212, R214: after `PB_SET` of a pixel inside the buffer, `PB_GET` of that pixel replies the colour set, and
`PB_GET` of any other pixel inside replies what it replied before. -/
def Obligations.PbGetReadsWhatPbSetWrote : Prop :=
  ∀ (pb : Byte) (x y x' y' c : Half) (s t : State) (b : PixelBuffer), s.Ready .hopD → s.Inv →
    pb.toNat < s.pbmNext → s.pbs[pb.toNat]? = some b →
    0 ≤ x.toInt ∧ x.toInt < b.w.toNat ∧ 0 ≤ y.toInt ∧ y.toInt < b.h.toNat →
    0 ≤ x'.toInt ∧ x'.toInt < b.w.toNat ∧ 0 ≤ y'.toInt ∧ y'.toInt < b.h.toNat →
    exec (.pbSet pb x y c) s = .next t →
    exec (.pbGet pb x y) t = .next (respondD ⟨.ok, [hi8 c, lo8 c], none⟩ t) ∧
      ((x', y') ≠ (x, y) → ∃ r, exec (.pbGet pb x' y') s = .next (respondD r s) ∧
        exec (.pbGet pb x' y') t = .next (respondD r t))

/-! ### The inner rows (log 4: run alone, the model's own convention) -/

/-- R86, R87, R150, R152, R237, R239: each display command, run alone, shows its frame on the bench with the data bytes R87
gives it, and at the first transaction that fails ends there; memory-write shows its stream in a bracket of its own.
That no opcode passes through the bench's TB is the model's choice (log 10, DESIGN CHOICE). -/
def Obligations.DisplayCommandsSendTheirFrame : Prop :=
  ∀ (s : State) (first last : Half) (px : List Half) (d0 d1 d2 d3 : Byte),
    let sends := fun (i : Instr) (op : Byte) (data : List Byte) =>
      s.BenchRuns i (frameEvents s.cfg.bufCap op data) (chunks s.cfg.bufCap 1 data)
    sends .softwareReset 0x01#8 [] ∧ sends .sleepOut 0x11#8 [] ∧ sends .inversionOn 0x21#8 [] ∧
      sends .displayOn 0x29#8 [] ∧
      sends (.columnAddressSet first last) 0x2A#8 [hi8 first, lo8 first, hi8 last, lo8 last] ∧
      sends (.pageAddressSet first last) 0x2B#8 [hi8 first, lo8 first, hi8 last, lo8 last] ∧
      sends (.memoryAccessControl d0) 0x36#8 [d0] ∧ sends (.pixelFormat d0) 0x3A#8 [d0] ∧
      sends (.frameRateControl d0 d1) 0xB1#8 [d0, d1] ∧ sends (.displayFunctionControl d0 d1 d2) 0xB6#8 [d0, d1, d2] ∧
      sends (.powerControl1 d0 d1) 0xC0#8 [d0, d1] ∧ sends (.powerControl2 d0) 0xC1#8 [d0] ∧
      sends (.vcomControl d0 d1 d2 d3) 0xC5#8 [d0, d1, d2, d3] ∧
      (let bytes := px.flatMap (fun c => [hi8 c, lo8 c])
       let evs := [.drive .sel false, .drive .dc false, .xfer [0x2C#8], .drive .dc true, .drive .sel true,
         .drive .sel false] ++ (chunks s.cfg.bufCap 2 bytes).map .xfer ++ [.drive .sel true]
       s.BenchRuns (.memoryWrite px) evs (chunks s.cfg.bufCap 2 bytes))

/-- R28, R52, R91, R232: the keyboard request alone is one transaction, on the bench; the bytes received are decoded next, as
a keyboard response, and a failure is reported with the bus's value. -/
def Obligations.KbdReqMakesTheTransaction : Prop :=
  ∀ s : State,
    let asked : State := { s with
      bench := { s.bench with traceK := s.bench.traceK ++ [.i2c s.cfg.kbdAddr [0x09#8] 2] }
      kbdScript := s.kbdScript.tail, kbdCount := s.kbdCount + 1 }
    (∀ e, s.kbdAnswer = .fail e → exec .kbdReq s = .next (asked.innerAnswer ⟨.busFail, [], some e⟩)) ∧
      ∀ tag key, s.kbdAnswer = .bytes tag key →
        exec .kbdReq s =
          .next ({ asked with pending := ⟨.kbdRsp, [tag, key]⟩ :: s.pending }.innerAnswer ⟨.ok, [], none⟩)

/-- R28, R92, R192: each keyboard response alone has the latch effect and the code or status of its row, on the bench. -/
def Obligations.KbdResponsesAreClassified : Prop :=
  ∀ (s : State) (tag key : Byte),
    let latched : Bool → State := fun level =>
      if key = 0xA1#8 then { s with bench := { s.bench with altDown := level } }
      else if key = s.cfg.keyCtrl then { s with bench := { s.bench with ctrlDown := level } } else s
    let mod : Prop := key = 0xA1#8 ∨ key = s.cfg.keyCtrl
    exec (.kbdRspNone key) s = .next (s.innerAnswer ⟨.ok, [0#8], none⟩) ∧
      (mod → exec (.kbdRspDown key) s = .next ((latched true).innerAnswer ⟨.ok, [0#8], none⟩)) ∧
      (¬mod → exec (.kbdRspDown key) s = .next (s.innerAnswer ⟨.ok, [key], none⟩)) ∧
      exec (.kbdRspHeld key) s = .next ((latched true).innerAnswer ⟨.ok, [0#8], none⟩) ∧
      exec (.kbdRspUp key) s = .next ((latched false).innerAnswer ⟨.ok, [0#8], none⟩) ∧
      exec (.kbdRspInvalid tag key) s = .next (s.innerAnswer ⟨.decodeFail, [tag, key], none⟩)

/-! ### The sequencers -/

/-- R64, R249: a move of HOP_D and a move of HOP_K can be made in either order, in every state. -/
def Obligations.PortsCommute : Prop :=
  ∀ s : State, advanceD (advanceK s) = advanceK (advanceD s)

/-- R21, R63: an operation accepted with grain `event` is `BUSY(sel, 0)`, and its moves, one by one, end where the same
operation run as a whole ends (log 1). -/
def Obligations.WholeOperationIsItsMoves : Prop :=
  ∀ (i : Instr) (s : State) (p : Port), i.format = .hostReq → s.Ready p →
    ∃ t u n, exec i s = .next t ∧ exec i { s with grain := .event } = .next u ∧
      (p = .hopD → ∃ rest reply, u = { s with grain := .event, seqD := .busy i.code 0 rest reply }) ∧
      (p = .hopK → ∃ poll reply, u = { s with grain := .event, seqK := .busy i.code 0 poll reply }) ∧
      advances p n u = { t with grain := .event }

/-- R21: a move of a busy port that is not its response raises the event index of `BUSY(sel, k)` by the number of events
it records, keeping `sel`, and the response sets `IDLE` and records no event. -/
def Obligations.EachEventAdvancesTheIndex : Prop :=
  (∀ (s : State) (sel : Byte) (k : Nat) (a : Act) (rest : List Act) (reply : Response),
    s.seqD = .busy sel k (a :: rest) reply →
      ∃ evs rest' reply', (advanceD s).traceD = s.traceD ++ evs ∧ (advanceD s).rspD = s.rspD ∧
        (advanceD s).seqD = .busy sel (k + evs.length) rest' reply') ∧
  (∀ (s : State) (sel : Byte) (k : Nat) (reply : Response), s.seqD = .busy sel k [] reply →
    (advanceD s).seqD = .idle ∧ (advanceD s).traceD = s.traceD ∧ (advanceD s).rspD = s.rspD ++ [reply]) ∧
  (∀ (s : State) (sel : Byte) (k : Nat) (reply : Response), s.seqK = .busy sel k true reply →
    ∃ e reply', (advanceK s).traceK = s.traceK ++ [e] ∧ (advanceK s).rspK = s.rspK ∧
      (advanceK s).seqK = .busy sel (k + 1) false reply') ∧
  ∀ (s : State) (sel : Byte) (k : Nat) (reply : Response), s.seqK = .busy sel k false reply →
    (advanceK s).seqK = .idle ∧ (advanceK s).traceK = s.traceK ∧ (advanceK s).rspK = s.rspK ++ [reply]

/-! ### Frames: what an operation leaves unchanged when it ends in a next state, whatever the buses answer -/

/-- R36: the PFC's operations, `SIZE`, `KBD_LATCH`, `PB_GET` and `PB_SIZE` write no state: only their response is
delivered. -/
def Obligations.PureOperationsOnlyReply : Prop :=
  ∀ (i : Instr) (s t : State) (p : Port), s.Ready p → exec i s = .next t →
    ((∃ r g b a, i = .toPacked r g b a) ∨ (∃ r g b, i = .makePacked r g b) ∨ i = .size ∨ i = .kbdLatch ∨
      (∃ pb x y, i = .pbGet pb x y) ∨ ∃ pb, i = .pbSize pb) →
    ∃ r, t = s.replied p r

/-- R36, R138, R239 (c): `WRITE_BYTE`, `WRITE_BYTES`, `WRITE_REP16` and `WRITE_PACKED_ARRAY` change nothing but TB below
the length of the longest transaction shown, `TB_FILL`, the transactions shown and the bus answers used, and one
response; `SEL` and `DC` are changed by nothing but the draw after a `BUS_FAIL` (log 15). -/
def Obligations.TransportFrame : Prop :=
  ∀ (i : Instr) (s t : State), s.Ready .hopD → exec i s = .next t →
    ((∃ b, i = .writeByte b) ∨ (∃ bs, i = .writeBytes bs) ∨ (∃ v n, i = .writeRep16 v n) ∨
      ∃ cs, i = .writePackedArray cs) →
    t = { s with
      tb := t.tb, tbFill := t.tbFill, traceD := t.traceD, rspD := t.rspD, busScript := t.busScript,
      busCount := t.busCount, sel := t.sel, dc := t.dc } ∧
    (∀ a, (∀ bs, .xfer bs ∈ t.traceD.drop s.traceD.length → bs.length ≤ a) → Memory.read t.tb a = Memory.read s.tb a) ∧
    (∃ r, t.rspD = s.rspD ++ [r] ∧ (r.status = .ok → t.sel = s.sel ∧ t.dc = s.dc)) ∧
    ∃ xs : List (List Byte), t.traceD = s.traceD ++ xs.map .xfer

/-- R36, R28, R155: `SET_WINDOW`, the drawing primitives, `RESET` and `INIT` change nothing but the window cache, the
pins, TB below the length of the longest transaction shown, `TB_FILL`, the events shown and the bus answers used, and one
response; only `RESET` changes `RST`, and only where there is a reset line. -/
def Obligations.DisplayFrame : Prop :=
  ∀ (i : Instr) (s t : State), s.Ready .hopD → exec i s = .next t →
    ((∃ x y w h, i = .setWindow x y w h) ∨ (∃ x y c, i = .setPixel x y c) ∨ (∃ a b y c, i = .drawHLine a b y c) ∨
      (∃ x a b c, i = .drawVLine x a b c) ∨ (∃ x y w h c, i = .fillRect x y w h c) ∨ (∃ x y pb, i = .blit x y pb) ∨
      i = .reset ∨ i = .init) →
    t = { s with
      colStart := t.colStart, colEnd := t.colEnd, rowStart := t.rowStart, rowEnd := t.rowEnd, sel := t.sel, dc := t.dc,
      rst := t.rst, tb := t.tb, tbFill := t.tbFill, traceD := t.traceD, rspD := t.rspD, busScript := t.busScript,
      busCount := t.busCount } ∧
    (∀ a, (∀ bs, .xfer bs ∈ t.traceD.drop s.traceD.length → bs.length ≤ a) → Memory.read t.tb a = Memory.read s.tb a) ∧
    (∃ r, t.rspD = s.rspD ++ [r]) ∧
    (¬(i = .reset ∧ s.cfg.hasRst = true) → t.rst = s.rst)

/-- R36, R210: `PB_CREATE`, `PB_SET` and `PB_FILL` emit no event and change nothing but the pixel buffer memory and one
response; `PB_CREATE` changes no word of a buffer there is, `PB_SET` no word but its pixel's, `PB_FILL` no word of
another buffer. -/
def Obligations.PixelBufferFrame : Prop :=
  ∀ (i : Instr) (s t : State), s.Ready .hopD → exec i s = .next t →
    ((∃ w h, i = .pbCreate w h) ∨ (∃ pb x y c, i = .pbSet pb x y c) ∨ ∃ pb c, i = .pbFill pb c) →
    t = { s with pbs := t.pbs, pbmNext := t.pbmNext, pbmUsed := t.pbmUsed, rspD := t.rspD } ∧
    (∃ r, t.rspD = s.rspD ++ [r]) ∧
    (∀ w h, i = .pbCreate w h → ∀ k < s.pbs.length, t.pbs[k]? = s.pbs[k]?) ∧
    (∀ pb x y c, i = .pbSet pb x y c → t.pbmNext = s.pbmNext ∧ t.pbmUsed = s.pbmUsed ∧
      ∀ k j, (∀ b, s.pixelBuffer pb = some b → b.index? x.toInt y.toInt = some j → k ≠ pb.toNat) →
        t.pbWord k j = s.pbWord k j) ∧
    ∀ pb c, i = .pbFill pb c → t.pbmNext = s.pbmNext ∧ t.pbmUsed = s.pbmUsed ∧
      ∀ k j, k ≠ pb.toNat → t.pbWord k j = s.pbWord k j

/-- R23, R26, R36, R94: a display command run alone (log 4) changes nothing but the bench, the bus answers used and one
outcome: no pin, no event, no byte of TB and no cache of the block; and of the bench's TB nothing beyond the length of the
longest transaction shown. -/
def Obligations.DisplayCommandFrame : Prop :=
  ∀ (i : Instr) (s t : State), i.format = .dispCmd → exec i s = .next t →
    t = { s with
      bench := t.bench, busScript := t.busScript, busCount := t.busCount, innerOut := t.innerOut } ∧
    (∀ a, (∀ bs, .xfer bs ∈ t.bench.traceD.drop s.bench.traceD.length → bs.length ≤ a) →
      Memory.read t.bench.tb a = Memory.read s.bench.tb a) ∧
    ∃ r, t.innerOut = s.innerOut ++ [r]

/-- R28, R36, R190, R193: `KBD_POLL` changes nothing but the latches, the keyboard bus's trace and answers, and one
response, and a key that is no modifier changes no latch; and no other instruction writes a latch. -/
def Obligations.KeyboardFrame : Prop :=
  (∀ (i : Instr) (s t : State), i ≠ .kbdPoll → exec i s = .next t →
    t.altDown = s.altDown ∧ t.ctrlDown = s.ctrlDown) ∧
  ∀ s t : State, s.Ready .hopK → exec .kbdPoll s = .next t →
    t = { s with
      altDown := t.altDown, ctrlDown := t.ctrlDown, traceK := t.traceK, kbdScript := t.kbdScript,
      kbdCount := t.kbdCount, rspK := t.rspK } ∧
    t.traceK.length = s.traceK.length + 1 ∧ (∃ r, t.rspK = s.rspK ++ [r]) ∧
    ∀ tag key, s.kbdAnswer = .bytes tag key →
      (key ≠ 0xA1#8 → t.altDown = s.altDown) ∧ (key ≠ s.cfg.keyCtrl → t.ctrlDown = s.ctrlDown)
end

