-- ==== Sys2Proof/Laws/Bytes.lean ====
section
/-!
SUPPORT. Byte order (20_memory.md R53, R54): taking a 16-bit or 32-bit value apart and putting it together again.
-/

namespace Sys2Proof

theorem half_toNat (p q : Byte) : (half p q).toNat = p.toNat * 256 + q.toNat := by
  unfold half
  rw [BitVec.toNat_append, ← Nat.shiftLeft_add_eq_or_of_lt q.isLt, Nat.shiftLeft_eq]

theorem hi8_toNat (v : Half) : (hi8 v).toNat = v.toNat / 256 := by
  have := v.isLt
  unfold hi8
  rw [BitVec.extractLsb'_toNat, Nat.shiftRight_eq_div_pow]
  omega

theorem lo8_toNat (v : Half) : (lo8 v).toNat = v.toNat % 256 := by
  unfold lo8
  rw [BitVec.extractLsb'_toNat, Nat.shiftRight_zero]

@[simp] theorem half_hi8_lo8 (v : Half) : half (hi8 v) (lo8 v) = v := by
  apply BitVec.eq_of_toNat_eq
  rw [half_toNat, hi8_toNat, lo8_toNat]
  omega

@[simp] theorem hi8_half (p q : Byte) : hi8 (half p q) = p := by
  apply BitVec.eq_of_toNat_eq
  have := q.isLt
  rw [hi8_toNat, half_toNat]
  omega

@[simp] theorem lo8_half (p q : Byte) : lo8 (half p q) = q := by
  apply BitVec.eq_of_toNat_eq
  have := q.isLt
  rw [lo8_toNat, half_toNat]
  omega

theorem count32_toNat (a b c d : Byte) :
    (count32 a b c d).toNat = ((a.toNat * 256 + b.toNat) * 256 + c.toNat) * 256 + d.toNat := by
  unfold count32
  rw [BitVec.toNat_append, ← Nat.shiftLeft_add_eq_or_of_lt d.isLt, Nat.shiftLeft_eq,
    BitVec.toNat_append, ← Nat.shiftLeft_add_eq_or_of_lt c.isLt, Nat.shiftLeft_eq,
    BitVec.toNat_append, ← Nat.shiftLeft_add_eq_or_of_lt b.isLt, Nat.shiftLeft_eq]

/-- A count read from its own four bytes. -/
@[simp] theorem count32_countBytes (n : Count) :
    count32 (n.extractLsb' 24 8) (n.extractLsb' 16 8) (n.extractLsb' 8 8) (n.extractLsb' 0 8) = n := by
  apply BitVec.eq_of_toNat_eq
  have := n.isLt
  rw [count32_toNat]
  simp only [BitVec.extractLsb'_toNat, Nat.shiftRight_eq_div_pow]
  omega

/-- The four bytes of a count read from four bytes. -/
@[simp] theorem countBytes_count32 (a b c d : Byte) : countBytes (count32 a b c d) = [a, b, c, d] := by
  have ha := a.isLt
  have hb := b.isLt
  have hc := c.isLt
  have hd := d.isLt
  unfold countBytes
  rw [List.cons.injEq, List.cons.injEq, List.cons.injEq, List.cons.injEq]
  refine ⟨?_, ?_, ?_, ?_, rfl⟩ <;> apply BitVec.eq_of_toNat_eq <;>
    rw [BitVec.extractLsb'_toNat, count32_toNat, Nat.shiftRight_eq_div_pow] <;> omega

/-- The values of the byte pairs of values. -/
@[simp] theorem halves_pairBytes (cs : List Half) : halves (Machine.pairBytes cs) = cs := by
  induction cs with
  | nil => rfl
  | cons c cs ih =>
    show half (hi8 c) (lo8 c) :: halves (Machine.pairBytes cs) = c :: cs
    rw [ih, half_hi8_lo8]

/-- The byte pairs of the values of an even number of bytes. -/
theorem pairBytes_halves : ∀ bs : List Byte, bs.length % 2 = 0 → Machine.pairBytes (halves bs) = bs
  | [], _ => rfl
  | [_], h => by cases h
  | p :: q :: rest, h => by
    show hi8 (half p q) :: lo8 (half p q) :: Machine.pairBytes (halves rest) = p :: q :: rest
    rw [hi8_half, lo8_half, pairBytes_halves rest (by simp only [List.length_cons] at h; omega)]

@[simp] theorem pairBytes_length (cs : List Half) : (Machine.pairBytes cs).length = 2 * cs.length := by
  induction cs with
  | nil => rfl
  | cons c cs ih =>
    show (hi8 c :: lo8 c :: Machine.pairBytes cs).length = _
    simp only [List.length_cons, ih]
    omega

@[simp] theorem halves_length : ∀ bs : List Byte, (halves bs).length = bs.length / 2
  | [] => rfl
  | [_] => by simp [halves]
  | p :: q :: rest => by
    rw [halves, List.length_cons, halves_length rest, List.length_cons, List.length_cons]
    omega

end Sys2Proof
end

