-- ==== Sys2Proof/Laws/Chunks.lean ====
section
/-! SUPPORT. The chunks of a payload: none is empty, none is longer than TB allows,
and together they are the payload. -/

namespace Sys2Proof.Machine

/-- R11: the smallest chunk capacity still holds one pixel. -/
theorem bufCap_ge_two (p : Params) : 2 ≤ p.bufCap := by
  have := p.checked
  simp [ParamValues.ok] at this
  omega

/-- No chunk is empty and none is longer than the capacity. -/
theorem chunksFrom_bounds (cap : Nat) (hc : 0 < cap) (bs pend : List Byte)
    (hp : pend.length < cap) :
    ∀ c ∈ chunksFrom cap bs pend pend.length, c ≠ [] ∧ c.length ≤ cap := by
  induction bs generalizing pend with
  | nil =>
    simp only [chunksFrom]
    split <;> simp_all
    omega
  | cons b bs ih =>
    simp only [chunksFrom]
    split
    · intro c hm
      rcases List.mem_cons.1 hm with rfl | hm
      · simp
        omega
      · exact ih [] hc c hm
    · exact ih (b :: pend) (by simp; omega)

/-- The chunks in order are the bytes held back followed by the bytes to come. -/
theorem chunksFrom_flatten (cap : Nat) (bs pend : List Byte) (n : Nat) :
    (chunksFrom cap bs pend n).flatten = pend.reverse ++ bs := by
  induction bs generalizing pend n with
  | nil =>
    simp only [chunksFrom]
    split <;> simp_all
  | cons b bs ih =>
    simp only [chunksFrom]
    split <;> simp [ih]

/-- For units of one byte or one pixel, every chunk is nonempty and fits TB. -/
theorem chunks_bounds (p : Params) (u : Nat) (hu : u = 1 ∨ u = 2) (bs : List Byte) :
    ∀ c ∈ chunks p.bufCap u bs, c ≠ [] ∧ c.length ≤ p.bufCap := by
  have := bufCap_ge_two p
  intro c hc
  have h0 : 0 < u * (p.bufCap / u) ∧ u * (p.bufCap / u) ≤ p.bufCap := by
    rcases hu with rfl | rfl <;> omega
  have := chunksFrom_bounds (u * (p.bufCap / u)) h0.1 bs [] (by simp; omega) c hc
  exact ⟨this.1, this.2.trans h0.2⟩

end Sys2Proof.Machine
end

