-- ==== Sys2Proof/Laws/State.lean ====
section
/-!
SUPPORT. What each update of the state does to each field, so that no proof unfolds a record update.
-/

namespace Sys2Proof.Machine

@[simp] theorem respondD_cfg (r : Response) (s : State) : (respondD r s).cfg = s.cfg := rfl
@[simp] theorem respondD_seqD (r : Response) (s : State) : (respondD r s).seqD = .idle := rfl
@[simp] theorem respondD_seqK (r : Response) (s : State) : (respondD r s).seqK = s.seqK := rfl
@[simp] theorem respondD_colStart (r : Response) (s : State) : (respondD r s).colStart = s.colStart := rfl
@[simp] theorem respondD_colEnd (r : Response) (s : State) : (respondD r s).colEnd = s.colEnd := rfl
@[simp] theorem respondD_rowStart (r : Response) (s : State) : (respondD r s).rowStart = s.rowStart := rfl
@[simp] theorem respondD_rowEnd (r : Response) (s : State) : (respondD r s).rowEnd = s.rowEnd := rfl
@[simp] theorem respondD_sel (r : Response) (s : State) : (respondD r s).sel = s.sel := rfl
@[simp] theorem respondD_dc (r : Response) (s : State) : (respondD r s).dc = s.dc := rfl
@[simp] theorem respondD_rst (r : Response) (s : State) : (respondD r s).rst = s.rst := rfl
@[simp] theorem respondD_altDown (r : Response) (s : State) : (respondD r s).altDown = s.altDown := rfl
@[simp] theorem respondD_ctrlDown (r : Response) (s : State) : (respondD r s).ctrlDown = s.ctrlDown := rfl
@[simp] theorem respondD_pbmNext (r : Response) (s : State) : (respondD r s).pbmNext = s.pbmNext := rfl
@[simp] theorem respondD_pbmUsed (r : Response) (s : State) : (respondD r s).pbmUsed = s.pbmUsed := rfl
@[simp] theorem respondD_pbs (r : Response) (s : State) : (respondD r s).pbs = s.pbs := rfl
@[simp] theorem respondD_tb (r : Response) (s : State) : (respondD r s).tb = s.tb := rfl
@[simp] theorem respondD_tbFill (r : Response) (s : State) : (respondD r s).tbFill = s.tbFill := rfl
@[simp] theorem respondD_port (r : Response) (s : State) : (respondD r s).port = s.port := rfl
@[simp] theorem respondD_grain (r : Response) (s : State) : (respondD r s).grain = s.grain := rfl
@[simp] theorem respondD_pending (r : Response) (s : State) : (respondD r s).pending = s.pending := rfl
@[simp] theorem respondD_turnScript (r : Response) (s : State) : (respondD r s).turnScript = s.turnScript := rfl
@[simp] theorem respondD_turnCount (r : Response) (s : State) : (respondD r s).turnCount = s.turnCount := rfl
@[simp] theorem respondD_busScript (r : Response) (s : State) : (respondD r s).busScript = s.busScript := rfl
@[simp] theorem respondD_busCount (r : Response) (s : State) : (respondD r s).busCount = s.busCount := rfl
@[simp] theorem respondD_kbdScript (r : Response) (s : State) : (respondD r s).kbdScript = s.kbdScript := rfl
@[simp] theorem respondD_kbdCount (r : Response) (s : State) : (respondD r s).kbdCount = s.kbdCount := rfl
@[simp] theorem respondD_traceD (r : Response) (s : State) : (respondD r s).traceD = s.traceD := rfl
@[simp] theorem respondD_traceK (r : Response) (s : State) : (respondD r s).traceK = s.traceK := rfl
@[simp] theorem respondD_rspD (r : Response) (s : State) : (respondD r s).rspD = s.rspD ++ [r] := rfl
@[simp] theorem respondD_rspK (r : Response) (s : State) : (respondD r s).rspK = s.rspK := rfl
@[simp] theorem respondD_bench (r : Response) (s : State) : (respondD r s).bench = s.bench := rfl
@[simp] theorem respondD_innerOut (r : Response) (s : State) : (respondD r s).innerOut = s.innerOut := rfl

@[simp] theorem respondK_cfg (r : Response) (s : State) : (respondK r s).cfg = s.cfg := rfl
@[simp] theorem respondK_seqD (r : Response) (s : State) : (respondK r s).seqD = s.seqD := rfl
@[simp] theorem respondK_seqK (r : Response) (s : State) : (respondK r s).seqK = .idle := rfl
@[simp] theorem respondK_colStart (r : Response) (s : State) : (respondK r s).colStart = s.colStart := rfl
@[simp] theorem respondK_colEnd (r : Response) (s : State) : (respondK r s).colEnd = s.colEnd := rfl
@[simp] theorem respondK_rowStart (r : Response) (s : State) : (respondK r s).rowStart = s.rowStart := rfl
@[simp] theorem respondK_rowEnd (r : Response) (s : State) : (respondK r s).rowEnd = s.rowEnd := rfl
@[simp] theorem respondK_sel (r : Response) (s : State) : (respondK r s).sel = s.sel := rfl
@[simp] theorem respondK_dc (r : Response) (s : State) : (respondK r s).dc = s.dc := rfl
@[simp] theorem respondK_rst (r : Response) (s : State) : (respondK r s).rst = s.rst := rfl
@[simp] theorem respondK_altDown (r : Response) (s : State) : (respondK r s).altDown = s.altDown := rfl
@[simp] theorem respondK_ctrlDown (r : Response) (s : State) : (respondK r s).ctrlDown = s.ctrlDown := rfl
@[simp] theorem respondK_pbmNext (r : Response) (s : State) : (respondK r s).pbmNext = s.pbmNext := rfl
@[simp] theorem respondK_pbmUsed (r : Response) (s : State) : (respondK r s).pbmUsed = s.pbmUsed := rfl
@[simp] theorem respondK_pbs (r : Response) (s : State) : (respondK r s).pbs = s.pbs := rfl
@[simp] theorem respondK_tb (r : Response) (s : State) : (respondK r s).tb = s.tb := rfl
@[simp] theorem respondK_tbFill (r : Response) (s : State) : (respondK r s).tbFill = s.tbFill := rfl
@[simp] theorem respondK_port (r : Response) (s : State) : (respondK r s).port = s.port := rfl
@[simp] theorem respondK_grain (r : Response) (s : State) : (respondK r s).grain = s.grain := rfl
@[simp] theorem respondK_pending (r : Response) (s : State) : (respondK r s).pending = s.pending := rfl
@[simp] theorem respondK_turnScript (r : Response) (s : State) : (respondK r s).turnScript = s.turnScript := rfl
@[simp] theorem respondK_turnCount (r : Response) (s : State) : (respondK r s).turnCount = s.turnCount := rfl
@[simp] theorem respondK_busScript (r : Response) (s : State) : (respondK r s).busScript = s.busScript := rfl
@[simp] theorem respondK_busCount (r : Response) (s : State) : (respondK r s).busCount = s.busCount := rfl
@[simp] theorem respondK_kbdScript (r : Response) (s : State) : (respondK r s).kbdScript = s.kbdScript := rfl
@[simp] theorem respondK_kbdCount (r : Response) (s : State) : (respondK r s).kbdCount = s.kbdCount := rfl
@[simp] theorem respondK_traceD (r : Response) (s : State) : (respondK r s).traceD = s.traceD := rfl
@[simp] theorem respondK_traceK (r : Response) (s : State) : (respondK r s).traceK = s.traceK := rfl
@[simp] theorem respondK_rspD (r : Response) (s : State) : (respondK r s).rspD = s.rspD := rfl
@[simp] theorem respondK_rspK (r : Response) (s : State) : (respondK r s).rspK = s.rspK ++ [r] := rfl
@[simp] theorem respondK_bench (r : Response) (s : State) : (respondK r s).bench = s.bench := rfl
@[simp] theorem respondK_innerOut (r : Response) (s : State) : (respondK r s).innerOut = s.innerOut := rfl

@[simp] theorem waitOp_cfg (ms : Nat) (s : State) : (waitOp ms s).cfg = s.cfg := rfl
@[simp] theorem waitOp_seqD (ms : Nat) (s : State) : (waitOp ms s).seqD = s.seqD := rfl
@[simp] theorem waitOp_seqK (ms : Nat) (s : State) : (waitOp ms s).seqK = s.seqK := rfl
@[simp] theorem waitOp_colStart (ms : Nat) (s : State) : (waitOp ms s).colStart = s.colStart := rfl
@[simp] theorem waitOp_colEnd (ms : Nat) (s : State) : (waitOp ms s).colEnd = s.colEnd := rfl
@[simp] theorem waitOp_rowStart (ms : Nat) (s : State) : (waitOp ms s).rowStart = s.rowStart := rfl
@[simp] theorem waitOp_rowEnd (ms : Nat) (s : State) : (waitOp ms s).rowEnd = s.rowEnd := rfl
@[simp] theorem waitOp_sel (ms : Nat) (s : State) : (waitOp ms s).sel = s.sel := rfl
@[simp] theorem waitOp_dc (ms : Nat) (s : State) : (waitOp ms s).dc = s.dc := rfl
@[simp] theorem waitOp_rst (ms : Nat) (s : State) : (waitOp ms s).rst = s.rst := rfl
@[simp] theorem waitOp_altDown (ms : Nat) (s : State) : (waitOp ms s).altDown = s.altDown := rfl
@[simp] theorem waitOp_ctrlDown (ms : Nat) (s : State) : (waitOp ms s).ctrlDown = s.ctrlDown := rfl
@[simp] theorem waitOp_pbmNext (ms : Nat) (s : State) : (waitOp ms s).pbmNext = s.pbmNext := rfl
@[simp] theorem waitOp_pbmUsed (ms : Nat) (s : State) : (waitOp ms s).pbmUsed = s.pbmUsed := rfl
@[simp] theorem waitOp_pbs (ms : Nat) (s : State) : (waitOp ms s).pbs = s.pbs := rfl
@[simp] theorem waitOp_tb (ms : Nat) (s : State) : (waitOp ms s).tb = s.tb := rfl
@[simp] theorem waitOp_tbFill (ms : Nat) (s : State) : (waitOp ms s).tbFill = s.tbFill := rfl
@[simp] theorem waitOp_port (ms : Nat) (s : State) : (waitOp ms s).port = s.port := rfl
@[simp] theorem waitOp_grain (ms : Nat) (s : State) : (waitOp ms s).grain = s.grain := rfl
@[simp] theorem waitOp_pending (ms : Nat) (s : State) : (waitOp ms s).pending = s.pending := rfl
@[simp] theorem waitOp_turnScript (ms : Nat) (s : State) : (waitOp ms s).turnScript = s.turnScript := rfl
@[simp] theorem waitOp_turnCount (ms : Nat) (s : State) : (waitOp ms s).turnCount = s.turnCount := rfl
@[simp] theorem waitOp_busScript (ms : Nat) (s : State) : (waitOp ms s).busScript = s.busScript := rfl
@[simp] theorem waitOp_busCount (ms : Nat) (s : State) : (waitOp ms s).busCount = s.busCount := rfl
@[simp] theorem waitOp_kbdScript (ms : Nat) (s : State) : (waitOp ms s).kbdScript = s.kbdScript := rfl
@[simp] theorem waitOp_kbdCount (ms : Nat) (s : State) : (waitOp ms s).kbdCount = s.kbdCount := rfl
@[simp] theorem waitOp_traceD (ms : Nat) (s : State) : (waitOp ms s).traceD = s.traceD ++ [.wait ms] := rfl
@[simp] theorem waitOp_traceK (ms : Nat) (s : State) : (waitOp ms s).traceK = s.traceK := rfl
@[simp] theorem waitOp_rspD (ms : Nat) (s : State) : (waitOp ms s).rspD = s.rspD := rfl
@[simp] theorem waitOp_rspK (ms : Nat) (s : State) : (waitOp ms s).rspK = s.rspK := rfl
@[simp] theorem waitOp_bench (ms : Nat) (s : State) : (waitOp ms s).bench = s.bench := rfl
@[simp] theorem waitOp_innerOut (ms : Nat) (s : State) : (waitOp ms s).innerOut = s.innerOut := rfl

@[simp] theorem stage_cfg (bs : List Byte) (s : State) : (stage bs s).cfg = s.cfg := rfl
@[simp] theorem stage_seqD (bs : List Byte) (s : State) : (stage bs s).seqD = s.seqD := rfl
@[simp] theorem stage_seqK (bs : List Byte) (s : State) : (stage bs s).seqK = s.seqK := rfl
@[simp] theorem stage_colStart (bs : List Byte) (s : State) : (stage bs s).colStart = s.colStart := rfl
@[simp] theorem stage_colEnd (bs : List Byte) (s : State) : (stage bs s).colEnd = s.colEnd := rfl
@[simp] theorem stage_rowStart (bs : List Byte) (s : State) : (stage bs s).rowStart = s.rowStart := rfl
@[simp] theorem stage_rowEnd (bs : List Byte) (s : State) : (stage bs s).rowEnd = s.rowEnd := rfl
@[simp] theorem stage_sel (bs : List Byte) (s : State) : (stage bs s).sel = s.sel := rfl
@[simp] theorem stage_dc (bs : List Byte) (s : State) : (stage bs s).dc = s.dc := rfl
@[simp] theorem stage_rst (bs : List Byte) (s : State) : (stage bs s).rst = s.rst := rfl
@[simp] theorem stage_altDown (bs : List Byte) (s : State) : (stage bs s).altDown = s.altDown := rfl
@[simp] theorem stage_ctrlDown (bs : List Byte) (s : State) : (stage bs s).ctrlDown = s.ctrlDown := rfl
@[simp] theorem stage_pbmNext (bs : List Byte) (s : State) : (stage bs s).pbmNext = s.pbmNext := rfl
@[simp] theorem stage_pbmUsed (bs : List Byte) (s : State) : (stage bs s).pbmUsed = s.pbmUsed := rfl
@[simp] theorem stage_pbs (bs : List Byte) (s : State) : (stage bs s).pbs = s.pbs := rfl
@[simp] theorem stage_tb (bs : List Byte) (s : State) : (stage bs s).tb = Memory.overlay s.tb bs := rfl
@[simp] theorem stage_tbFill (bs : List Byte) (s : State) : (stage bs s).tbFill = bs.length := rfl
@[simp] theorem stage_port (bs : List Byte) (s : State) : (stage bs s).port = s.port := rfl
@[simp] theorem stage_grain (bs : List Byte) (s : State) : (stage bs s).grain = s.grain := rfl
@[simp] theorem stage_pending (bs : List Byte) (s : State) : (stage bs s).pending = s.pending := rfl
@[simp] theorem stage_turnScript (bs : List Byte) (s : State) : (stage bs s).turnScript = s.turnScript := rfl
@[simp] theorem stage_turnCount (bs : List Byte) (s : State) : (stage bs s).turnCount = s.turnCount := rfl
@[simp] theorem stage_busScript (bs : List Byte) (s : State) : (stage bs s).busScript = s.busScript := rfl
@[simp] theorem stage_busCount (bs : List Byte) (s : State) : (stage bs s).busCount = s.busCount := rfl
@[simp] theorem stage_kbdScript (bs : List Byte) (s : State) : (stage bs s).kbdScript = s.kbdScript := rfl
@[simp] theorem stage_kbdCount (bs : List Byte) (s : State) : (stage bs s).kbdCount = s.kbdCount := rfl
@[simp] theorem stage_traceD (bs : List Byte) (s : State) : (stage bs s).traceD = s.traceD := rfl
@[simp] theorem stage_traceK (bs : List Byte) (s : State) : (stage bs s).traceK = s.traceK := rfl
@[simp] theorem stage_rspD (bs : List Byte) (s : State) : (stage bs s).rspD = s.rspD := rfl
@[simp] theorem stage_rspK (bs : List Byte) (s : State) : (stage bs s).rspK = s.rspK := rfl
@[simp] theorem stage_bench (bs : List Byte) (s : State) : (stage bs s).bench = s.bench := rfl
@[simp] theorem stage_innerOut (bs : List Byte) (s : State) : (stage bs s).innerOut = s.innerOut := rfl

@[simp] theorem pbNewOp_cfg (w h : Half) (s : State) : (pbNewOp w h s).cfg = s.cfg := rfl
@[simp] theorem pbNewOp_seqD (w h : Half) (s : State) : (pbNewOp w h s).seqD = s.seqD := rfl
@[simp] theorem pbNewOp_seqK (w h : Half) (s : State) : (pbNewOp w h s).seqK = s.seqK := rfl
@[simp] theorem pbNewOp_colStart (w h : Half) (s : State) : (pbNewOp w h s).colStart = s.colStart := rfl
@[simp] theorem pbNewOp_colEnd (w h : Half) (s : State) : (pbNewOp w h s).colEnd = s.colEnd := rfl
@[simp] theorem pbNewOp_rowStart (w h : Half) (s : State) : (pbNewOp w h s).rowStart = s.rowStart := rfl
@[simp] theorem pbNewOp_rowEnd (w h : Half) (s : State) : (pbNewOp w h s).rowEnd = s.rowEnd := rfl
@[simp] theorem pbNewOp_sel (w h : Half) (s : State) : (pbNewOp w h s).sel = s.sel := rfl
@[simp] theorem pbNewOp_dc (w h : Half) (s : State) : (pbNewOp w h s).dc = s.dc := rfl
@[simp] theorem pbNewOp_rst (w h : Half) (s : State) : (pbNewOp w h s).rst = s.rst := rfl
@[simp] theorem pbNewOp_altDown (w h : Half) (s : State) : (pbNewOp w h s).altDown = s.altDown := rfl
@[simp] theorem pbNewOp_ctrlDown (w h : Half) (s : State) : (pbNewOp w h s).ctrlDown = s.ctrlDown := rfl
@[simp] theorem pbNewOp_pbmNext (w h : Half) (s : State) : (pbNewOp w h s).pbmNext = s.pbmNext + 1 := rfl
@[simp] theorem pbNewOp_pbmUsed (w h : Half) (s : State) : (pbNewOp w h s).pbmUsed = s.pbmUsed + u16 w * u16 h := rfl
@[simp] theorem pbNewOp_pbs (w h : Half) (s : State) : (pbNewOp w h s).pbs = s.pbs ++ [⟨w, h, List.replicate (u16 w * u16 h) 0#16⟩] := rfl
@[simp] theorem pbNewOp_tb (w h : Half) (s : State) : (pbNewOp w h s).tb = s.tb := rfl
@[simp] theorem pbNewOp_tbFill (w h : Half) (s : State) : (pbNewOp w h s).tbFill = s.tbFill := rfl
@[simp] theorem pbNewOp_port (w h : Half) (s : State) : (pbNewOp w h s).port = s.port := rfl
@[simp] theorem pbNewOp_grain (w h : Half) (s : State) : (pbNewOp w h s).grain = s.grain := rfl
@[simp] theorem pbNewOp_pending (w h : Half) (s : State) : (pbNewOp w h s).pending = s.pending := rfl
@[simp] theorem pbNewOp_turnScript (w h : Half) (s : State) : (pbNewOp w h s).turnScript = s.turnScript := rfl
@[simp] theorem pbNewOp_turnCount (w h : Half) (s : State) : (pbNewOp w h s).turnCount = s.turnCount := rfl
@[simp] theorem pbNewOp_busScript (w h : Half) (s : State) : (pbNewOp w h s).busScript = s.busScript := rfl
@[simp] theorem pbNewOp_busCount (w h : Half) (s : State) : (pbNewOp w h s).busCount = s.busCount := rfl
@[simp] theorem pbNewOp_kbdScript (w h : Half) (s : State) : (pbNewOp w h s).kbdScript = s.kbdScript := rfl
@[simp] theorem pbNewOp_kbdCount (w h : Half) (s : State) : (pbNewOp w h s).kbdCount = s.kbdCount := rfl
@[simp] theorem pbNewOp_traceD (w h : Half) (s : State) : (pbNewOp w h s).traceD = s.traceD := rfl
@[simp] theorem pbNewOp_traceK (w h : Half) (s : State) : (pbNewOp w h s).traceK = s.traceK := rfl
@[simp] theorem pbNewOp_rspD (w h : Half) (s : State) : (pbNewOp w h s).rspD = s.rspD := rfl
@[simp] theorem pbNewOp_rspK (w h : Half) (s : State) : (pbNewOp w h s).rspK = s.rspK := rfl
@[simp] theorem pbNewOp_bench (w h : Half) (s : State) : (pbNewOp w h s).bench = s.bench := rfl
@[simp] theorem pbNewOp_innerOut (w h : Half) (s : State) : (pbNewOp w h s).innerOut = s.innerOut := rfl

@[simp] theorem pbWriteOp_cfg (pb : Byte) (i : Nat) (c : Half) (s : State) : (pbWriteOp pb i c s).cfg = s.cfg := rfl
@[simp] theorem pbWriteOp_seqD (pb : Byte) (i : Nat) (c : Half) (s : State) : (pbWriteOp pb i c s).seqD = s.seqD := rfl
@[simp] theorem pbWriteOp_seqK (pb : Byte) (i : Nat) (c : Half) (s : State) : (pbWriteOp pb i c s).seqK = s.seqK := rfl
@[simp] theorem pbWriteOp_colStart (pb : Byte) (i : Nat) (c : Half) (s : State) : (pbWriteOp pb i c s).colStart = s.colStart := rfl
@[simp] theorem pbWriteOp_colEnd (pb : Byte) (i : Nat) (c : Half) (s : State) : (pbWriteOp pb i c s).colEnd = s.colEnd := rfl
@[simp] theorem pbWriteOp_rowStart (pb : Byte) (i : Nat) (c : Half) (s : State) : (pbWriteOp pb i c s).rowStart = s.rowStart := rfl
@[simp] theorem pbWriteOp_rowEnd (pb : Byte) (i : Nat) (c : Half) (s : State) : (pbWriteOp pb i c s).rowEnd = s.rowEnd := rfl
@[simp] theorem pbWriteOp_sel (pb : Byte) (i : Nat) (c : Half) (s : State) : (pbWriteOp pb i c s).sel = s.sel := rfl
@[simp] theorem pbWriteOp_dc (pb : Byte) (i : Nat) (c : Half) (s : State) : (pbWriteOp pb i c s).dc = s.dc := rfl
@[simp] theorem pbWriteOp_rst (pb : Byte) (i : Nat) (c : Half) (s : State) : (pbWriteOp pb i c s).rst = s.rst := rfl
@[simp] theorem pbWriteOp_altDown (pb : Byte) (i : Nat) (c : Half) (s : State) : (pbWriteOp pb i c s).altDown = s.altDown := rfl
@[simp] theorem pbWriteOp_ctrlDown (pb : Byte) (i : Nat) (c : Half) (s : State) : (pbWriteOp pb i c s).ctrlDown = s.ctrlDown := rfl
@[simp] theorem pbWriteOp_pbmNext (pb : Byte) (i : Nat) (c : Half) (s : State) : (pbWriteOp pb i c s).pbmNext = s.pbmNext := rfl
@[simp] theorem pbWriteOp_pbmUsed (pb : Byte) (i : Nat) (c : Half) (s : State) : (pbWriteOp pb i c s).pbmUsed = s.pbmUsed := rfl
@[simp] theorem pbWriteOp_pbs (pb : Byte) (i : Nat) (c : Half) (s : State) : (pbWriteOp pb i c s).pbs = s.pbs.modify pb.toNat (fun b => { b with data := b.data.set i c }) := rfl
@[simp] theorem pbWriteOp_tb (pb : Byte) (i : Nat) (c : Half) (s : State) : (pbWriteOp pb i c s).tb = s.tb := rfl
@[simp] theorem pbWriteOp_tbFill (pb : Byte) (i : Nat) (c : Half) (s : State) : (pbWriteOp pb i c s).tbFill = s.tbFill := rfl
@[simp] theorem pbWriteOp_port (pb : Byte) (i : Nat) (c : Half) (s : State) : (pbWriteOp pb i c s).port = s.port := rfl
@[simp] theorem pbWriteOp_grain (pb : Byte) (i : Nat) (c : Half) (s : State) : (pbWriteOp pb i c s).grain = s.grain := rfl
@[simp] theorem pbWriteOp_pending (pb : Byte) (i : Nat) (c : Half) (s : State) : (pbWriteOp pb i c s).pending = s.pending := rfl
@[simp] theorem pbWriteOp_turnScript (pb : Byte) (i : Nat) (c : Half) (s : State) : (pbWriteOp pb i c s).turnScript = s.turnScript := rfl
@[simp] theorem pbWriteOp_turnCount (pb : Byte) (i : Nat) (c : Half) (s : State) : (pbWriteOp pb i c s).turnCount = s.turnCount := rfl
@[simp] theorem pbWriteOp_busScript (pb : Byte) (i : Nat) (c : Half) (s : State) : (pbWriteOp pb i c s).busScript = s.busScript := rfl
@[simp] theorem pbWriteOp_busCount (pb : Byte) (i : Nat) (c : Half) (s : State) : (pbWriteOp pb i c s).busCount = s.busCount := rfl
@[simp] theorem pbWriteOp_kbdScript (pb : Byte) (i : Nat) (c : Half) (s : State) : (pbWriteOp pb i c s).kbdScript = s.kbdScript := rfl
@[simp] theorem pbWriteOp_kbdCount (pb : Byte) (i : Nat) (c : Half) (s : State) : (pbWriteOp pb i c s).kbdCount = s.kbdCount := rfl
@[simp] theorem pbWriteOp_traceD (pb : Byte) (i : Nat) (c : Half) (s : State) : (pbWriteOp pb i c s).traceD = s.traceD := rfl
@[simp] theorem pbWriteOp_traceK (pb : Byte) (i : Nat) (c : Half) (s : State) : (pbWriteOp pb i c s).traceK = s.traceK := rfl
@[simp] theorem pbWriteOp_rspD (pb : Byte) (i : Nat) (c : Half) (s : State) : (pbWriteOp pb i c s).rspD = s.rspD := rfl
@[simp] theorem pbWriteOp_rspK (pb : Byte) (i : Nat) (c : Half) (s : State) : (pbWriteOp pb i c s).rspK = s.rspK := rfl
@[simp] theorem pbWriteOp_bench (pb : Byte) (i : Nat) (c : Half) (s : State) : (pbWriteOp pb i c s).bench = s.bench := rfl
@[simp] theorem pbWriteOp_innerOut (pb : Byte) (i : Nat) (c : Half) (s : State) : (pbWriteOp pb i c s).innerOut = s.innerOut := rfl

@[simp] theorem pbFillOp_cfg (pb : Byte) (c : Half) (s : State) : (pbFillOp pb c s).cfg = s.cfg := rfl
@[simp] theorem pbFillOp_seqD (pb : Byte) (c : Half) (s : State) : (pbFillOp pb c s).seqD = s.seqD := rfl
@[simp] theorem pbFillOp_seqK (pb : Byte) (c : Half) (s : State) : (pbFillOp pb c s).seqK = s.seqK := rfl
@[simp] theorem pbFillOp_colStart (pb : Byte) (c : Half) (s : State) : (pbFillOp pb c s).colStart = s.colStart := rfl
@[simp] theorem pbFillOp_colEnd (pb : Byte) (c : Half) (s : State) : (pbFillOp pb c s).colEnd = s.colEnd := rfl
@[simp] theorem pbFillOp_rowStart (pb : Byte) (c : Half) (s : State) : (pbFillOp pb c s).rowStart = s.rowStart := rfl
@[simp] theorem pbFillOp_rowEnd (pb : Byte) (c : Half) (s : State) : (pbFillOp pb c s).rowEnd = s.rowEnd := rfl
@[simp] theorem pbFillOp_sel (pb : Byte) (c : Half) (s : State) : (pbFillOp pb c s).sel = s.sel := rfl
@[simp] theorem pbFillOp_dc (pb : Byte) (c : Half) (s : State) : (pbFillOp pb c s).dc = s.dc := rfl
@[simp] theorem pbFillOp_rst (pb : Byte) (c : Half) (s : State) : (pbFillOp pb c s).rst = s.rst := rfl
@[simp] theorem pbFillOp_altDown (pb : Byte) (c : Half) (s : State) : (pbFillOp pb c s).altDown = s.altDown := rfl
@[simp] theorem pbFillOp_ctrlDown (pb : Byte) (c : Half) (s : State) : (pbFillOp pb c s).ctrlDown = s.ctrlDown := rfl
@[simp] theorem pbFillOp_pbmNext (pb : Byte) (c : Half) (s : State) : (pbFillOp pb c s).pbmNext = s.pbmNext := rfl
@[simp] theorem pbFillOp_pbmUsed (pb : Byte) (c : Half) (s : State) : (pbFillOp pb c s).pbmUsed = s.pbmUsed := rfl
@[simp] theorem pbFillOp_pbs (pb : Byte) (c : Half) (s : State) : (pbFillOp pb c s).pbs = s.pbs.modify pb.toNat (fun b => { b with data := b.data.map (fun _ => c) }) := rfl
@[simp] theorem pbFillOp_tb (pb : Byte) (c : Half) (s : State) : (pbFillOp pb c s).tb = s.tb := rfl
@[simp] theorem pbFillOp_tbFill (pb : Byte) (c : Half) (s : State) : (pbFillOp pb c s).tbFill = s.tbFill := rfl
@[simp] theorem pbFillOp_port (pb : Byte) (c : Half) (s : State) : (pbFillOp pb c s).port = s.port := rfl
@[simp] theorem pbFillOp_grain (pb : Byte) (c : Half) (s : State) : (pbFillOp pb c s).grain = s.grain := rfl
@[simp] theorem pbFillOp_pending (pb : Byte) (c : Half) (s : State) : (pbFillOp pb c s).pending = s.pending := rfl
@[simp] theorem pbFillOp_turnScript (pb : Byte) (c : Half) (s : State) : (pbFillOp pb c s).turnScript = s.turnScript := rfl
@[simp] theorem pbFillOp_turnCount (pb : Byte) (c : Half) (s : State) : (pbFillOp pb c s).turnCount = s.turnCount := rfl
@[simp] theorem pbFillOp_busScript (pb : Byte) (c : Half) (s : State) : (pbFillOp pb c s).busScript = s.busScript := rfl
@[simp] theorem pbFillOp_busCount (pb : Byte) (c : Half) (s : State) : (pbFillOp pb c s).busCount = s.busCount := rfl
@[simp] theorem pbFillOp_kbdScript (pb : Byte) (c : Half) (s : State) : (pbFillOp pb c s).kbdScript = s.kbdScript := rfl
@[simp] theorem pbFillOp_kbdCount (pb : Byte) (c : Half) (s : State) : (pbFillOp pb c s).kbdCount = s.kbdCount := rfl
@[simp] theorem pbFillOp_traceD (pb : Byte) (c : Half) (s : State) : (pbFillOp pb c s).traceD = s.traceD := rfl
@[simp] theorem pbFillOp_traceK (pb : Byte) (c : Half) (s : State) : (pbFillOp pb c s).traceK = s.traceK := rfl
@[simp] theorem pbFillOp_rspD (pb : Byte) (c : Half) (s : State) : (pbFillOp pb c s).rspD = s.rspD := rfl
@[simp] theorem pbFillOp_rspK (pb : Byte) (c : Half) (s : State) : (pbFillOp pb c s).rspK = s.rspK := rfl
@[simp] theorem pbFillOp_bench (pb : Byte) (c : Half) (s : State) : (pbFillOp pb c s).bench = s.bench := rfl
@[simp] theorem pbFillOp_innerOut (pb : Byte) (c : Half) (s : State) : (pbFillOp pb c s).innerOut = s.innerOut := rfl

@[simp] theorem turnTaken_cfg (s : State) : (turnTaken s).cfg = s.cfg := rfl
@[simp] theorem turnTaken_seqD (s : State) : (turnTaken s).seqD = s.seqD := rfl
@[simp] theorem turnTaken_seqK (s : State) : (turnTaken s).seqK = s.seqK := rfl
@[simp] theorem turnTaken_colStart (s : State) : (turnTaken s).colStart = s.colStart := rfl
@[simp] theorem turnTaken_colEnd (s : State) : (turnTaken s).colEnd = s.colEnd := rfl
@[simp] theorem turnTaken_rowStart (s : State) : (turnTaken s).rowStart = s.rowStart := rfl
@[simp] theorem turnTaken_rowEnd (s : State) : (turnTaken s).rowEnd = s.rowEnd := rfl
@[simp] theorem turnTaken_sel (s : State) : (turnTaken s).sel = s.sel := rfl
@[simp] theorem turnTaken_dc (s : State) : (turnTaken s).dc = s.dc := rfl
@[simp] theorem turnTaken_rst (s : State) : (turnTaken s).rst = s.rst := rfl
@[simp] theorem turnTaken_altDown (s : State) : (turnTaken s).altDown = s.altDown := rfl
@[simp] theorem turnTaken_ctrlDown (s : State) : (turnTaken s).ctrlDown = s.ctrlDown := rfl
@[simp] theorem turnTaken_pbmNext (s : State) : (turnTaken s).pbmNext = s.pbmNext := rfl
@[simp] theorem turnTaken_pbmUsed (s : State) : (turnTaken s).pbmUsed = s.pbmUsed := rfl
@[simp] theorem turnTaken_pbs (s : State) : (turnTaken s).pbs = s.pbs := rfl
@[simp] theorem turnTaken_tb (s : State) : (turnTaken s).tb = s.tb := rfl
@[simp] theorem turnTaken_tbFill (s : State) : (turnTaken s).tbFill = s.tbFill := rfl
@[simp] theorem turnTaken_port (s : State) : (turnTaken s).port = s.port := rfl
@[simp] theorem turnTaken_grain (s : State) : (turnTaken s).grain = s.grain := rfl
@[simp] theorem turnTaken_pending (s : State) : (turnTaken s).pending = s.pending := rfl
@[simp] theorem turnTaken_turnScript (s : State) : (turnTaken s).turnScript = s.turnScript.tail := rfl
@[simp] theorem turnTaken_turnCount (s : State) : (turnTaken s).turnCount = s.turnCount + 1 := rfl
@[simp] theorem turnTaken_busScript (s : State) : (turnTaken s).busScript = s.busScript := rfl
@[simp] theorem turnTaken_busCount (s : State) : (turnTaken s).busCount = s.busCount := rfl
@[simp] theorem turnTaken_kbdScript (s : State) : (turnTaken s).kbdScript = s.kbdScript := rfl
@[simp] theorem turnTaken_kbdCount (s : State) : (turnTaken s).kbdCount = s.kbdCount := rfl
@[simp] theorem turnTaken_traceD (s : State) : (turnTaken s).traceD = s.traceD := rfl
@[simp] theorem turnTaken_traceK (s : State) : (turnTaken s).traceK = s.traceK := rfl
@[simp] theorem turnTaken_rspD (s : State) : (turnTaken s).rspD = s.rspD := rfl
@[simp] theorem turnTaken_rspK (s : State) : (turnTaken s).rspK = s.rspK := rfl
@[simp] theorem turnTaken_bench (s : State) : (turnTaken s).bench = s.bench := rfl
@[simp] theorem turnTaken_innerOut (s : State) : (turnTaken s).innerOut = s.innerOut := rfl

@[simp] theorem driveOp_cfg (p : Pin) (l : Bool) (s : State) : (driveOp p l s).cfg = s.cfg := by cases p <;> rfl
@[simp] theorem driveOp_seqD (p : Pin) (l : Bool) (s : State) : (driveOp p l s).seqD = s.seqD := by cases p <;> rfl
@[simp] theorem driveOp_seqK (p : Pin) (l : Bool) (s : State) : (driveOp p l s).seqK = s.seqK := by cases p <;> rfl
@[simp] theorem driveOp_colStart (p : Pin) (l : Bool) (s : State) : (driveOp p l s).colStart = s.colStart := by cases p <;> rfl
@[simp] theorem driveOp_colEnd (p : Pin) (l : Bool) (s : State) : (driveOp p l s).colEnd = s.colEnd := by cases p <;> rfl
@[simp] theorem driveOp_rowStart (p : Pin) (l : Bool) (s : State) : (driveOp p l s).rowStart = s.rowStart := by cases p <;> rfl
@[simp] theorem driveOp_rowEnd (p : Pin) (l : Bool) (s : State) : (driveOp p l s).rowEnd = s.rowEnd := by cases p <;> rfl
@[simp] theorem driveOp_sel (p : Pin) (l : Bool) (s : State) : (driveOp p l s).sel = (if p = .sel then l else s.sel) := by cases p <;> rfl
@[simp] theorem driveOp_dc (p : Pin) (l : Bool) (s : State) : (driveOp p l s).dc = (if p = .dc then l else s.dc) := by cases p <;> rfl
@[simp] theorem driveOp_rst (p : Pin) (l : Bool) (s : State) : (driveOp p l s).rst = (if p = .rst then l else s.rst) := by cases p <;> rfl
@[simp] theorem driveOp_altDown (p : Pin) (l : Bool) (s : State) : (driveOp p l s).altDown = s.altDown := by cases p <;> rfl
@[simp] theorem driveOp_ctrlDown (p : Pin) (l : Bool) (s : State) : (driveOp p l s).ctrlDown = s.ctrlDown := by cases p <;> rfl
@[simp] theorem driveOp_pbmNext (p : Pin) (l : Bool) (s : State) : (driveOp p l s).pbmNext = s.pbmNext := by cases p <;> rfl
@[simp] theorem driveOp_pbmUsed (p : Pin) (l : Bool) (s : State) : (driveOp p l s).pbmUsed = s.pbmUsed := by cases p <;> rfl
@[simp] theorem driveOp_pbs (p : Pin) (l : Bool) (s : State) : (driveOp p l s).pbs = s.pbs := by cases p <;> rfl
@[simp] theorem driveOp_tb (p : Pin) (l : Bool) (s : State) : (driveOp p l s).tb = s.tb := by cases p <;> rfl
@[simp] theorem driveOp_tbFill (p : Pin) (l : Bool) (s : State) : (driveOp p l s).tbFill = s.tbFill := by cases p <;> rfl
@[simp] theorem driveOp_port (p : Pin) (l : Bool) (s : State) : (driveOp p l s).port = s.port := by cases p <;> rfl
@[simp] theorem driveOp_grain (p : Pin) (l : Bool) (s : State) : (driveOp p l s).grain = s.grain := by cases p <;> rfl
@[simp] theorem driveOp_pending (p : Pin) (l : Bool) (s : State) : (driveOp p l s).pending = s.pending := by cases p <;> rfl
@[simp] theorem driveOp_turnScript (p : Pin) (l : Bool) (s : State) : (driveOp p l s).turnScript = s.turnScript := by cases p <;> rfl
@[simp] theorem driveOp_turnCount (p : Pin) (l : Bool) (s : State) : (driveOp p l s).turnCount = s.turnCount := by cases p <;> rfl
@[simp] theorem driveOp_busScript (p : Pin) (l : Bool) (s : State) : (driveOp p l s).busScript = s.busScript := by cases p <;> rfl
@[simp] theorem driveOp_busCount (p : Pin) (l : Bool) (s : State) : (driveOp p l s).busCount = s.busCount := by cases p <;> rfl
@[simp] theorem driveOp_kbdScript (p : Pin) (l : Bool) (s : State) : (driveOp p l s).kbdScript = s.kbdScript := by cases p <;> rfl
@[simp] theorem driveOp_kbdCount (p : Pin) (l : Bool) (s : State) : (driveOp p l s).kbdCount = s.kbdCount := by cases p <;> rfl
@[simp] theorem driveOp_traceD (p : Pin) (l : Bool) (s : State) : (driveOp p l s).traceD = s.traceD ++ [.drive p l] := by cases p <;> rfl
@[simp] theorem driveOp_traceK (p : Pin) (l : Bool) (s : State) : (driveOp p l s).traceK = s.traceK := by cases p <;> rfl
@[simp] theorem driveOp_rspD (p : Pin) (l : Bool) (s : State) : (driveOp p l s).rspD = s.rspD := by cases p <;> rfl
@[simp] theorem driveOp_rspK (p : Pin) (l : Bool) (s : State) : (driveOp p l s).rspK = s.rspK := by cases p <;> rfl
@[simp] theorem driveOp_bench (p : Pin) (l : Bool) (s : State) : (driveOp p l s).bench = s.bench := by cases p <;> rfl
@[simp] theorem driveOp_innerOut (p : Pin) (l : Bool) (s : State) : (driveOp p l s).innerOut = s.innerOut := by cases p <;> rfl

@[simp] theorem writeCache_cfg (c : CacheWrite) (s : State) : (writeCache c s).cfg = s.cfg := by cases c <;> rfl
@[simp] theorem writeCache_seqD (c : CacheWrite) (s : State) : (writeCache c s).seqD = s.seqD := by cases c <;> rfl
@[simp] theorem writeCache_seqK (c : CacheWrite) (s : State) : (writeCache c s).seqK = s.seqK := by cases c <;> rfl
@[simp] theorem writeCache_sel (c : CacheWrite) (s : State) : (writeCache c s).sel = s.sel := by cases c <;> rfl
@[simp] theorem writeCache_dc (c : CacheWrite) (s : State) : (writeCache c s).dc = s.dc := by cases c <;> rfl
@[simp] theorem writeCache_rst (c : CacheWrite) (s : State) : (writeCache c s).rst = s.rst := by cases c <;> rfl
@[simp] theorem writeCache_altDown (c : CacheWrite) (s : State) : (writeCache c s).altDown = s.altDown := by cases c <;> rfl
@[simp] theorem writeCache_ctrlDown (c : CacheWrite) (s : State) : (writeCache c s).ctrlDown = s.ctrlDown := by cases c <;> rfl
@[simp] theorem writeCache_pbmNext (c : CacheWrite) (s : State) : (writeCache c s).pbmNext = s.pbmNext := by cases c <;> rfl
@[simp] theorem writeCache_pbmUsed (c : CacheWrite) (s : State) : (writeCache c s).pbmUsed = s.pbmUsed := by cases c <;> rfl
@[simp] theorem writeCache_pbs (c : CacheWrite) (s : State) : (writeCache c s).pbs = s.pbs := by cases c <;> rfl
@[simp] theorem writeCache_tb (c : CacheWrite) (s : State) : (writeCache c s).tb = s.tb := by cases c <;> rfl
@[simp] theorem writeCache_tbFill (c : CacheWrite) (s : State) : (writeCache c s).tbFill = s.tbFill := by cases c <;> rfl
@[simp] theorem writeCache_port (c : CacheWrite) (s : State) : (writeCache c s).port = s.port := by cases c <;> rfl
@[simp] theorem writeCache_grain (c : CacheWrite) (s : State) : (writeCache c s).grain = s.grain := by cases c <;> rfl
@[simp] theorem writeCache_pending (c : CacheWrite) (s : State) : (writeCache c s).pending = s.pending := by cases c <;> rfl
@[simp] theorem writeCache_turnScript (c : CacheWrite) (s : State) : (writeCache c s).turnScript = s.turnScript := by cases c <;> rfl
@[simp] theorem writeCache_turnCount (c : CacheWrite) (s : State) : (writeCache c s).turnCount = s.turnCount := by cases c <;> rfl
@[simp] theorem writeCache_busScript (c : CacheWrite) (s : State) : (writeCache c s).busScript = s.busScript := by cases c <;> rfl
@[simp] theorem writeCache_busCount (c : CacheWrite) (s : State) : (writeCache c s).busCount = s.busCount := by cases c <;> rfl
@[simp] theorem writeCache_kbdScript (c : CacheWrite) (s : State) : (writeCache c s).kbdScript = s.kbdScript := by cases c <;> rfl
@[simp] theorem writeCache_kbdCount (c : CacheWrite) (s : State) : (writeCache c s).kbdCount = s.kbdCount := by cases c <;> rfl
@[simp] theorem writeCache_traceD (c : CacheWrite) (s : State) : (writeCache c s).traceD = s.traceD := by cases c <;> rfl
@[simp] theorem writeCache_traceK (c : CacheWrite) (s : State) : (writeCache c s).traceK = s.traceK := by cases c <;> rfl
@[simp] theorem writeCache_rspD (c : CacheWrite) (s : State) : (writeCache c s).rspD = s.rspD := by cases c <;> rfl
@[simp] theorem writeCache_rspK (c : CacheWrite) (s : State) : (writeCache c s).rspK = s.rspK := by cases c <;> rfl
@[simp] theorem writeCache_bench (c : CacheWrite) (s : State) : (writeCache c s).bench = s.bench := by cases c <;> rfl
@[simp] theorem writeCache_innerOut (c : CacheWrite) (s : State) : (writeCache c s).innerOut = s.innerOut := by cases c <;> rfl

@[simp] theorem setLatch_cfg (l : Bool) (k : Byte) (s : State) : (setLatch l k s).cfg = s.cfg := by unfold setLatch; split <;> [rfl; (split <;> rfl)]
@[simp] theorem setLatch_seqD (l : Bool) (k : Byte) (s : State) : (setLatch l k s).seqD = s.seqD := by unfold setLatch; split <;> [rfl; (split <;> rfl)]
@[simp] theorem setLatch_seqK (l : Bool) (k : Byte) (s : State) : (setLatch l k s).seqK = s.seqK := by unfold setLatch; split <;> [rfl; (split <;> rfl)]
@[simp] theorem setLatch_colStart (l : Bool) (k : Byte) (s : State) : (setLatch l k s).colStart = s.colStart := by unfold setLatch; split <;> [rfl; (split <;> rfl)]
@[simp] theorem setLatch_colEnd (l : Bool) (k : Byte) (s : State) : (setLatch l k s).colEnd = s.colEnd := by unfold setLatch; split <;> [rfl; (split <;> rfl)]
@[simp] theorem setLatch_rowStart (l : Bool) (k : Byte) (s : State) : (setLatch l k s).rowStart = s.rowStart := by unfold setLatch; split <;> [rfl; (split <;> rfl)]
@[simp] theorem setLatch_rowEnd (l : Bool) (k : Byte) (s : State) : (setLatch l k s).rowEnd = s.rowEnd := by unfold setLatch; split <;> [rfl; (split <;> rfl)]
@[simp] theorem setLatch_sel (l : Bool) (k : Byte) (s : State) : (setLatch l k s).sel = s.sel := by unfold setLatch; split <;> [rfl; (split <;> rfl)]
@[simp] theorem setLatch_dc (l : Bool) (k : Byte) (s : State) : (setLatch l k s).dc = s.dc := by unfold setLatch; split <;> [rfl; (split <;> rfl)]
@[simp] theorem setLatch_rst (l : Bool) (k : Byte) (s : State) : (setLatch l k s).rst = s.rst := by unfold setLatch; split <;> [rfl; (split <;> rfl)]
@[simp] theorem setLatch_pbmNext (l : Bool) (k : Byte) (s : State) : (setLatch l k s).pbmNext = s.pbmNext := by unfold setLatch; split <;> [rfl; (split <;> rfl)]
@[simp] theorem setLatch_pbmUsed (l : Bool) (k : Byte) (s : State) : (setLatch l k s).pbmUsed = s.pbmUsed := by unfold setLatch; split <;> [rfl; (split <;> rfl)]
@[simp] theorem setLatch_pbs (l : Bool) (k : Byte) (s : State) : (setLatch l k s).pbs = s.pbs := by unfold setLatch; split <;> [rfl; (split <;> rfl)]
@[simp] theorem setLatch_tb (l : Bool) (k : Byte) (s : State) : (setLatch l k s).tb = s.tb := by unfold setLatch; split <;> [rfl; (split <;> rfl)]
@[simp] theorem setLatch_tbFill (l : Bool) (k : Byte) (s : State) : (setLatch l k s).tbFill = s.tbFill := by unfold setLatch; split <;> [rfl; (split <;> rfl)]
@[simp] theorem setLatch_port (l : Bool) (k : Byte) (s : State) : (setLatch l k s).port = s.port := by unfold setLatch; split <;> [rfl; (split <;> rfl)]
@[simp] theorem setLatch_grain (l : Bool) (k : Byte) (s : State) : (setLatch l k s).grain = s.grain := by unfold setLatch; split <;> [rfl; (split <;> rfl)]
@[simp] theorem setLatch_pending (l : Bool) (k : Byte) (s : State) : (setLatch l k s).pending = s.pending := by unfold setLatch; split <;> [rfl; (split <;> rfl)]
@[simp] theorem setLatch_turnScript (l : Bool) (k : Byte) (s : State) : (setLatch l k s).turnScript = s.turnScript := by unfold setLatch; split <;> [rfl; (split <;> rfl)]
@[simp] theorem setLatch_turnCount (l : Bool) (k : Byte) (s : State) : (setLatch l k s).turnCount = s.turnCount := by unfold setLatch; split <;> [rfl; (split <;> rfl)]
@[simp] theorem setLatch_busScript (l : Bool) (k : Byte) (s : State) : (setLatch l k s).busScript = s.busScript := by unfold setLatch; split <;> [rfl; (split <;> rfl)]
@[simp] theorem setLatch_busCount (l : Bool) (k : Byte) (s : State) : (setLatch l k s).busCount = s.busCount := by unfold setLatch; split <;> [rfl; (split <;> rfl)]
@[simp] theorem setLatch_kbdScript (l : Bool) (k : Byte) (s : State) : (setLatch l k s).kbdScript = s.kbdScript := by unfold setLatch; split <;> [rfl; (split <;> rfl)]
@[simp] theorem setLatch_kbdCount (l : Bool) (k : Byte) (s : State) : (setLatch l k s).kbdCount = s.kbdCount := by unfold setLatch; split <;> [rfl; (split <;> rfl)]
@[simp] theorem setLatch_traceD (l : Bool) (k : Byte) (s : State) : (setLatch l k s).traceD = s.traceD := by unfold setLatch; split <;> [rfl; (split <;> rfl)]
@[simp] theorem setLatch_traceK (l : Bool) (k : Byte) (s : State) : (setLatch l k s).traceK = s.traceK := by unfold setLatch; split <;> [rfl; (split <;> rfl)]
@[simp] theorem setLatch_rspD (l : Bool) (k : Byte) (s : State) : (setLatch l k s).rspD = s.rspD := by unfold setLatch; split <;> [rfl; (split <;> rfl)]
@[simp] theorem setLatch_rspK (l : Bool) (k : Byte) (s : State) : (setLatch l k s).rspK = s.rspK := by unfold setLatch; split <;> [rfl; (split <;> rfl)]
@[simp] theorem setLatch_bench (l : Bool) (k : Byte) (s : State) : (setLatch l k s).bench = s.bench := by unfold setLatch; split <;> [rfl; (split <;> rfl)]
@[simp] theorem setLatch_innerOut (l : Bool) (k : Byte) (s : State) : (setLatch l k s).innerOut = s.innerOut := by unfold setLatch; split <;> [rfl; (split <;> rfl)]

@[simp] theorem drawAfterFail_cfg (f : Option CacheWrite) (d : FailDraw) (s : State) : (drawAfterFail f d s).cfg = s.cfg := by cases f with
  | none => rfl
  | some c => simp only [drawAfterFail]; split <;> cases c <;> rfl
@[simp] theorem drawAfterFail_seqD (f : Option CacheWrite) (d : FailDraw) (s : State) : (drawAfterFail f d s).seqD = s.seqD := by cases f with
  | none => rfl
  | some c => simp only [drawAfterFail]; split <;> cases c <;> rfl
@[simp] theorem drawAfterFail_seqK (f : Option CacheWrite) (d : FailDraw) (s : State) : (drawAfterFail f d s).seqK = s.seqK := by cases f with
  | none => rfl
  | some c => simp only [drawAfterFail]; split <;> cases c <;> rfl
@[simp] theorem drawAfterFail_sel (f : Option CacheWrite) (d : FailDraw) (s : State) : (drawAfterFail f d s).sel = d.sel := by cases f with
  | none => rfl
  | some c => simp only [drawAfterFail]; split <;> cases c <;> rfl
@[simp] theorem drawAfterFail_dc (f : Option CacheWrite) (d : FailDraw) (s : State) : (drawAfterFail f d s).dc = d.dc := by cases f with
  | none => rfl
  | some c => simp only [drawAfterFail]; split <;> cases c <;> rfl
@[simp] theorem drawAfterFail_rst (f : Option CacheWrite) (d : FailDraw) (s : State) : (drawAfterFail f d s).rst = s.rst := by cases f with
  | none => rfl
  | some c => simp only [drawAfterFail]; split <;> cases c <;> rfl
@[simp] theorem drawAfterFail_altDown (f : Option CacheWrite) (d : FailDraw) (s : State) : (drawAfterFail f d s).altDown = s.altDown := by cases f with
  | none => rfl
  | some c => simp only [drawAfterFail]; split <;> cases c <;> rfl
@[simp] theorem drawAfterFail_ctrlDown (f : Option CacheWrite) (d : FailDraw) (s : State) : (drawAfterFail f d s).ctrlDown = s.ctrlDown := by cases f with
  | none => rfl
  | some c => simp only [drawAfterFail]; split <;> cases c <;> rfl
@[simp] theorem drawAfterFail_pbmNext (f : Option CacheWrite) (d : FailDraw) (s : State) : (drawAfterFail f d s).pbmNext = s.pbmNext := by cases f with
  | none => rfl
  | some c => simp only [drawAfterFail]; split <;> cases c <;> rfl
@[simp] theorem drawAfterFail_pbmUsed (f : Option CacheWrite) (d : FailDraw) (s : State) : (drawAfterFail f d s).pbmUsed = s.pbmUsed := by cases f with
  | none => rfl
  | some c => simp only [drawAfterFail]; split <;> cases c <;> rfl
@[simp] theorem drawAfterFail_pbs (f : Option CacheWrite) (d : FailDraw) (s : State) : (drawAfterFail f d s).pbs = s.pbs := by cases f with
  | none => rfl
  | some c => simp only [drawAfterFail]; split <;> cases c <;> rfl
@[simp] theorem drawAfterFail_tb (f : Option CacheWrite) (d : FailDraw) (s : State) : (drawAfterFail f d s).tb = s.tb := by cases f with
  | none => rfl
  | some c => simp only [drawAfterFail]; split <;> cases c <;> rfl
@[simp] theorem drawAfterFail_tbFill (f : Option CacheWrite) (d : FailDraw) (s : State) : (drawAfterFail f d s).tbFill = s.tbFill := by cases f with
  | none => rfl
  | some c => simp only [drawAfterFail]; split <;> cases c <;> rfl
@[simp] theorem drawAfterFail_port (f : Option CacheWrite) (d : FailDraw) (s : State) : (drawAfterFail f d s).port = s.port := by cases f with
  | none => rfl
  | some c => simp only [drawAfterFail]; split <;> cases c <;> rfl
@[simp] theorem drawAfterFail_grain (f : Option CacheWrite) (d : FailDraw) (s : State) : (drawAfterFail f d s).grain = s.grain := by cases f with
  | none => rfl
  | some c => simp only [drawAfterFail]; split <;> cases c <;> rfl
@[simp] theorem drawAfterFail_pending (f : Option CacheWrite) (d : FailDraw) (s : State) : (drawAfterFail f d s).pending = s.pending := by cases f with
  | none => rfl
  | some c => simp only [drawAfterFail]; split <;> cases c <;> rfl
@[simp] theorem drawAfterFail_turnScript (f : Option CacheWrite) (d : FailDraw) (s : State) : (drawAfterFail f d s).turnScript = s.turnScript := by cases f with
  | none => rfl
  | some c => simp only [drawAfterFail]; split <;> cases c <;> rfl
@[simp] theorem drawAfterFail_turnCount (f : Option CacheWrite) (d : FailDraw) (s : State) : (drawAfterFail f d s).turnCount = s.turnCount := by cases f with
  | none => rfl
  | some c => simp only [drawAfterFail]; split <;> cases c <;> rfl
@[simp] theorem drawAfterFail_busScript (f : Option CacheWrite) (d : FailDraw) (s : State) : (drawAfterFail f d s).busScript = s.busScript := by cases f with
  | none => rfl
  | some c => simp only [drawAfterFail]; split <;> cases c <;> rfl
@[simp] theorem drawAfterFail_busCount (f : Option CacheWrite) (d : FailDraw) (s : State) : (drawAfterFail f d s).busCount = s.busCount := by cases f with
  | none => rfl
  | some c => simp only [drawAfterFail]; split <;> cases c <;> rfl
@[simp] theorem drawAfterFail_kbdScript (f : Option CacheWrite) (d : FailDraw) (s : State) : (drawAfterFail f d s).kbdScript = s.kbdScript := by cases f with
  | none => rfl
  | some c => simp only [drawAfterFail]; split <;> cases c <;> rfl
@[simp] theorem drawAfterFail_kbdCount (f : Option CacheWrite) (d : FailDraw) (s : State) : (drawAfterFail f d s).kbdCount = s.kbdCount := by cases f with
  | none => rfl
  | some c => simp only [drawAfterFail]; split <;> cases c <;> rfl
@[simp] theorem drawAfterFail_traceD (f : Option CacheWrite) (d : FailDraw) (s : State) : (drawAfterFail f d s).traceD = s.traceD := by cases f with
  | none => rfl
  | some c => simp only [drawAfterFail]; split <;> cases c <;> rfl
@[simp] theorem drawAfterFail_traceK (f : Option CacheWrite) (d : FailDraw) (s : State) : (drawAfterFail f d s).traceK = s.traceK := by cases f with
  | none => rfl
  | some c => simp only [drawAfterFail]; split <;> cases c <;> rfl
@[simp] theorem drawAfterFail_rspD (f : Option CacheWrite) (d : FailDraw) (s : State) : (drawAfterFail f d s).rspD = s.rspD := by cases f with
  | none => rfl
  | some c => simp only [drawAfterFail]; split <;> cases c <;> rfl
@[simp] theorem drawAfterFail_rspK (f : Option CacheWrite) (d : FailDraw) (s : State) : (drawAfterFail f d s).rspK = s.rspK := by cases f with
  | none => rfl
  | some c => simp only [drawAfterFail]; split <;> cases c <;> rfl
@[simp] theorem drawAfterFail_bench (f : Option CacheWrite) (d : FailDraw) (s : State) : (drawAfterFail f d s).bench = s.bench := by cases f with
  | none => rfl
  | some c => simp only [drawAfterFail]; split <;> cases c <;> rfl
@[simp] theorem drawAfterFail_innerOut (f : Option CacheWrite) (d : FailDraw) (s : State) : (drawAfterFail f d s).innerOut = s.innerOut := by cases f with
  | none => rfl
  | some c => simp only [drawAfterFail]; split <;> cases c <;> rfl

@[simp] theorem shows_cfg (s : State) (evs : List DispEvent) (staged : List (List Byte)) : (s.shows evs staged).cfg = s.cfg := rfl
@[simp] theorem shows_seqD (s : State) (evs : List DispEvent) (staged : List (List Byte)) : (s.shows evs staged).seqD = s.seqD := rfl
@[simp] theorem shows_seqK (s : State) (evs : List DispEvent) (staged : List (List Byte)) : (s.shows evs staged).seqK = s.seqK := rfl
@[simp] theorem shows_colStart (s : State) (evs : List DispEvent) (staged : List (List Byte)) : (s.shows evs staged).colStart = s.colStart := rfl
@[simp] theorem shows_colEnd (s : State) (evs : List DispEvent) (staged : List (List Byte)) : (s.shows evs staged).colEnd = s.colEnd := rfl
@[simp] theorem shows_rowStart (s : State) (evs : List DispEvent) (staged : List (List Byte)) : (s.shows evs staged).rowStart = s.rowStart := rfl
@[simp] theorem shows_rowEnd (s : State) (evs : List DispEvent) (staged : List (List Byte)) : (s.shows evs staged).rowEnd = s.rowEnd := rfl
@[simp] theorem shows_sel (s : State) (evs : List DispEvent) (staged : List (List Byte)) : (s.shows evs staged).sel = levelAfter .sel evs s.sel := rfl
@[simp] theorem shows_dc (s : State) (evs : List DispEvent) (staged : List (List Byte)) : (s.shows evs staged).dc = levelAfter .dc evs s.dc := rfl
@[simp] theorem shows_rst (s : State) (evs : List DispEvent) (staged : List (List Byte)) : (s.shows evs staged).rst = levelAfter .rst evs s.rst := rfl
@[simp] theorem shows_altDown (s : State) (evs : List DispEvent) (staged : List (List Byte)) : (s.shows evs staged).altDown = s.altDown := rfl
@[simp] theorem shows_ctrlDown (s : State) (evs : List DispEvent) (staged : List (List Byte)) : (s.shows evs staged).ctrlDown = s.ctrlDown := rfl
@[simp] theorem shows_pbmNext (s : State) (evs : List DispEvent) (staged : List (List Byte)) : (s.shows evs staged).pbmNext = s.pbmNext := rfl
@[simp] theorem shows_pbmUsed (s : State) (evs : List DispEvent) (staged : List (List Byte)) : (s.shows evs staged).pbmUsed = s.pbmUsed := rfl
@[simp] theorem shows_pbs (s : State) (evs : List DispEvent) (staged : List (List Byte)) : (s.shows evs staged).pbs = s.pbs := rfl
@[simp] theorem shows_tb (s : State) (evs : List DispEvent) (staged : List (List Byte)) : (s.shows evs staged).tb = stageAll staged s.tb := rfl
@[simp] theorem shows_tbFill (s : State) (evs : List DispEvent) (staged : List (List Byte)) : (s.shows evs staged).tbFill = s.tbFill := rfl
@[simp] theorem shows_port (s : State) (evs : List DispEvent) (staged : List (List Byte)) : (s.shows evs staged).port = s.port := rfl
@[simp] theorem shows_grain (s : State) (evs : List DispEvent) (staged : List (List Byte)) : (s.shows evs staged).grain = s.grain := rfl
@[simp] theorem shows_pending (s : State) (evs : List DispEvent) (staged : List (List Byte)) : (s.shows evs staged).pending = s.pending := rfl
@[simp] theorem shows_turnScript (s : State) (evs : List DispEvent) (staged : List (List Byte)) : (s.shows evs staged).turnScript = s.turnScript := rfl
@[simp] theorem shows_turnCount (s : State) (evs : List DispEvent) (staged : List (List Byte)) : (s.shows evs staged).turnCount = s.turnCount := rfl
@[simp] theorem shows_busScript (s : State) (evs : List DispEvent) (staged : List (List Byte)) : (s.shows evs staged).busScript = s.busScript.drop (xferCount evs) := rfl
@[simp] theorem shows_busCount (s : State) (evs : List DispEvent) (staged : List (List Byte)) : (s.shows evs staged).busCount = s.busCount + xferCount evs := rfl
@[simp] theorem shows_kbdScript (s : State) (evs : List DispEvent) (staged : List (List Byte)) : (s.shows evs staged).kbdScript = s.kbdScript := rfl
@[simp] theorem shows_kbdCount (s : State) (evs : List DispEvent) (staged : List (List Byte)) : (s.shows evs staged).kbdCount = s.kbdCount := rfl
@[simp] theorem shows_traceD (s : State) (evs : List DispEvent) (staged : List (List Byte)) : (s.shows evs staged).traceD = s.traceD ++ evs := rfl
@[simp] theorem shows_traceK (s : State) (evs : List DispEvent) (staged : List (List Byte)) : (s.shows evs staged).traceK = s.traceK := rfl
@[simp] theorem shows_rspD (s : State) (evs : List DispEvent) (staged : List (List Byte)) : (s.shows evs staged).rspD = s.rspD := rfl
@[simp] theorem shows_rspK (s : State) (evs : List DispEvent) (staged : List (List Byte)) : (s.shows evs staged).rspK = s.rspK := rfl
@[simp] theorem shows_bench (s : State) (evs : List DispEvent) (staged : List (List Byte)) : (s.shows evs staged).bench = s.bench := rfl
@[simp] theorem shows_innerOut (s : State) (evs : List DispEvent) (staged : List (List Byte)) : (s.shows evs staged).innerOut = s.innerOut := rfl

@[simp] theorem filled_cfg (s : State) (n : Nat) : (s.filled n).cfg = s.cfg := rfl
@[simp] theorem filled_seqD (s : State) (n : Nat) : (s.filled n).seqD = s.seqD := rfl
@[simp] theorem filled_seqK (s : State) (n : Nat) : (s.filled n).seqK = s.seqK := rfl
@[simp] theorem filled_colStart (s : State) (n : Nat) : (s.filled n).colStart = s.colStart := rfl
@[simp] theorem filled_colEnd (s : State) (n : Nat) : (s.filled n).colEnd = s.colEnd := rfl
@[simp] theorem filled_rowStart (s : State) (n : Nat) : (s.filled n).rowStart = s.rowStart := rfl
@[simp] theorem filled_rowEnd (s : State) (n : Nat) : (s.filled n).rowEnd = s.rowEnd := rfl
@[simp] theorem filled_sel (s : State) (n : Nat) : (s.filled n).sel = s.sel := rfl
@[simp] theorem filled_dc (s : State) (n : Nat) : (s.filled n).dc = s.dc := rfl
@[simp] theorem filled_rst (s : State) (n : Nat) : (s.filled n).rst = s.rst := rfl
@[simp] theorem filled_altDown (s : State) (n : Nat) : (s.filled n).altDown = s.altDown := rfl
@[simp] theorem filled_ctrlDown (s : State) (n : Nat) : (s.filled n).ctrlDown = s.ctrlDown := rfl
@[simp] theorem filled_pbmNext (s : State) (n : Nat) : (s.filled n).pbmNext = s.pbmNext := rfl
@[simp] theorem filled_pbmUsed (s : State) (n : Nat) : (s.filled n).pbmUsed = s.pbmUsed := rfl
@[simp] theorem filled_pbs (s : State) (n : Nat) : (s.filled n).pbs = s.pbs := rfl
@[simp] theorem filled_tb (s : State) (n : Nat) : (s.filled n).tb = s.tb := rfl
@[simp] theorem filled_tbFill (s : State) (n : Nat) : (s.filled n).tbFill = n := rfl
@[simp] theorem filled_port (s : State) (n : Nat) : (s.filled n).port = s.port := rfl
@[simp] theorem filled_grain (s : State) (n : Nat) : (s.filled n).grain = s.grain := rfl
@[simp] theorem filled_pending (s : State) (n : Nat) : (s.filled n).pending = s.pending := rfl
@[simp] theorem filled_turnScript (s : State) (n : Nat) : (s.filled n).turnScript = s.turnScript := rfl
@[simp] theorem filled_turnCount (s : State) (n : Nat) : (s.filled n).turnCount = s.turnCount := rfl
@[simp] theorem filled_busScript (s : State) (n : Nat) : (s.filled n).busScript = s.busScript := rfl
@[simp] theorem filled_busCount (s : State) (n : Nat) : (s.filled n).busCount = s.busCount := rfl
@[simp] theorem filled_kbdScript (s : State) (n : Nat) : (s.filled n).kbdScript = s.kbdScript := rfl
@[simp] theorem filled_kbdCount (s : State) (n : Nat) : (s.filled n).kbdCount = s.kbdCount := rfl
@[simp] theorem filled_traceD (s : State) (n : Nat) : (s.filled n).traceD = s.traceD := rfl
@[simp] theorem filled_traceK (s : State) (n : Nat) : (s.filled n).traceK = s.traceK := rfl
@[simp] theorem filled_rspD (s : State) (n : Nat) : (s.filled n).rspD = s.rspD := rfl
@[simp] theorem filled_rspK (s : State) (n : Nat) : (s.filled n).rspK = s.rspK := rfl
@[simp] theorem filled_bench (s : State) (n : Nat) : (s.filled n).bench = s.bench := rfl
@[simp] theorem filled_innerOut (s : State) (n : Nat) : (s.filled n).innerOut = s.innerOut := rfl

@[simp] theorem benchShows_cfg (s : State) (evs : List DispEvent) (staged : List (List Byte)) : (s.benchShows evs staged).cfg = s.cfg := rfl
@[simp] theorem benchShows_seqD (s : State) (evs : List DispEvent) (staged : List (List Byte)) : (s.benchShows evs staged).seqD = s.seqD := rfl
@[simp] theorem benchShows_seqK (s : State) (evs : List DispEvent) (staged : List (List Byte)) : (s.benchShows evs staged).seqK = s.seqK := rfl
@[simp] theorem benchShows_colStart (s : State) (evs : List DispEvent) (staged : List (List Byte)) : (s.benchShows evs staged).colStart = s.colStart := rfl
@[simp] theorem benchShows_colEnd (s : State) (evs : List DispEvent) (staged : List (List Byte)) : (s.benchShows evs staged).colEnd = s.colEnd := rfl
@[simp] theorem benchShows_rowStart (s : State) (evs : List DispEvent) (staged : List (List Byte)) : (s.benchShows evs staged).rowStart = s.rowStart := rfl
@[simp] theorem benchShows_rowEnd (s : State) (evs : List DispEvent) (staged : List (List Byte)) : (s.benchShows evs staged).rowEnd = s.rowEnd := rfl
@[simp] theorem benchShows_sel (s : State) (evs : List DispEvent) (staged : List (List Byte)) : (s.benchShows evs staged).sel = s.sel := rfl
@[simp] theorem benchShows_dc (s : State) (evs : List DispEvent) (staged : List (List Byte)) : (s.benchShows evs staged).dc = s.dc := rfl
@[simp] theorem benchShows_rst (s : State) (evs : List DispEvent) (staged : List (List Byte)) : (s.benchShows evs staged).rst = s.rst := rfl
@[simp] theorem benchShows_altDown (s : State) (evs : List DispEvent) (staged : List (List Byte)) : (s.benchShows evs staged).altDown = s.altDown := rfl
@[simp] theorem benchShows_ctrlDown (s : State) (evs : List DispEvent) (staged : List (List Byte)) : (s.benchShows evs staged).ctrlDown = s.ctrlDown := rfl
@[simp] theorem benchShows_pbmNext (s : State) (evs : List DispEvent) (staged : List (List Byte)) : (s.benchShows evs staged).pbmNext = s.pbmNext := rfl
@[simp] theorem benchShows_pbmUsed (s : State) (evs : List DispEvent) (staged : List (List Byte)) : (s.benchShows evs staged).pbmUsed = s.pbmUsed := rfl
@[simp] theorem benchShows_pbs (s : State) (evs : List DispEvent) (staged : List (List Byte)) : (s.benchShows evs staged).pbs = s.pbs := rfl
@[simp] theorem benchShows_tb (s : State) (evs : List DispEvent) (staged : List (List Byte)) : (s.benchShows evs staged).tb = s.tb := rfl
@[simp] theorem benchShows_tbFill (s : State) (evs : List DispEvent) (staged : List (List Byte)) : (s.benchShows evs staged).tbFill = s.tbFill := rfl
@[simp] theorem benchShows_port (s : State) (evs : List DispEvent) (staged : List (List Byte)) : (s.benchShows evs staged).port = s.port := rfl
@[simp] theorem benchShows_grain (s : State) (evs : List DispEvent) (staged : List (List Byte)) : (s.benchShows evs staged).grain = s.grain := rfl
@[simp] theorem benchShows_pending (s : State) (evs : List DispEvent) (staged : List (List Byte)) : (s.benchShows evs staged).pending = s.pending := rfl
@[simp] theorem benchShows_turnScript (s : State) (evs : List DispEvent) (staged : List (List Byte)) : (s.benchShows evs staged).turnScript = s.turnScript := rfl
@[simp] theorem benchShows_turnCount (s : State) (evs : List DispEvent) (staged : List (List Byte)) : (s.benchShows evs staged).turnCount = s.turnCount := rfl
@[simp] theorem benchShows_busScript (s : State) (evs : List DispEvent) (staged : List (List Byte)) : (s.benchShows evs staged).busScript = s.busScript.drop (xferCount evs) := rfl
@[simp] theorem benchShows_busCount (s : State) (evs : List DispEvent) (staged : List (List Byte)) : (s.benchShows evs staged).busCount = s.busCount + xferCount evs := rfl
@[simp] theorem benchShows_kbdScript (s : State) (evs : List DispEvent) (staged : List (List Byte)) : (s.benchShows evs staged).kbdScript = s.kbdScript := rfl
@[simp] theorem benchShows_kbdCount (s : State) (evs : List DispEvent) (staged : List (List Byte)) : (s.benchShows evs staged).kbdCount = s.kbdCount := rfl
@[simp] theorem benchShows_traceD (s : State) (evs : List DispEvent) (staged : List (List Byte)) : (s.benchShows evs staged).traceD = s.traceD := rfl
@[simp] theorem benchShows_traceK (s : State) (evs : List DispEvent) (staged : List (List Byte)) : (s.benchShows evs staged).traceK = s.traceK := rfl
@[simp] theorem benchShows_rspD (s : State) (evs : List DispEvent) (staged : List (List Byte)) : (s.benchShows evs staged).rspD = s.rspD := rfl
@[simp] theorem benchShows_rspK (s : State) (evs : List DispEvent) (staged : List (List Byte)) : (s.benchShows evs staged).rspK = s.rspK := rfl
@[simp] theorem benchShows_bench (s : State) (evs : List DispEvent) (staged : List (List Byte)) : (s.benchShows evs staged).bench = s.bench.shows evs staged := rfl
@[simp] theorem benchShows_innerOut (s : State) (evs : List DispEvent) (staged : List (List Byte)) : (s.benchShows evs staged).innerOut = s.innerOut := rfl

@[simp] theorem benchAfter_cfg (s t : State) : (s.benchAfter t).cfg = s.cfg := rfl
@[simp] theorem benchAfter_seqD (s t : State) : (s.benchAfter t).seqD = s.seqD := rfl
@[simp] theorem benchAfter_seqK (s t : State) : (s.benchAfter t).seqK = s.seqK := rfl
@[simp] theorem benchAfter_colStart (s t : State) : (s.benchAfter t).colStart = s.colStart := rfl
@[simp] theorem benchAfter_colEnd (s t : State) : (s.benchAfter t).colEnd = s.colEnd := rfl
@[simp] theorem benchAfter_rowStart (s t : State) : (s.benchAfter t).rowStart = s.rowStart := rfl
@[simp] theorem benchAfter_rowEnd (s t : State) : (s.benchAfter t).rowEnd = s.rowEnd := rfl
@[simp] theorem benchAfter_sel (s t : State) : (s.benchAfter t).sel = s.sel := rfl
@[simp] theorem benchAfter_dc (s t : State) : (s.benchAfter t).dc = s.dc := rfl
@[simp] theorem benchAfter_rst (s t : State) : (s.benchAfter t).rst = s.rst := rfl
@[simp] theorem benchAfter_altDown (s t : State) : (s.benchAfter t).altDown = s.altDown := rfl
@[simp] theorem benchAfter_ctrlDown (s t : State) : (s.benchAfter t).ctrlDown = s.ctrlDown := rfl
@[simp] theorem benchAfter_pbmNext (s t : State) : (s.benchAfter t).pbmNext = s.pbmNext := rfl
@[simp] theorem benchAfter_pbmUsed (s t : State) : (s.benchAfter t).pbmUsed = s.pbmUsed := rfl
@[simp] theorem benchAfter_pbs (s t : State) : (s.benchAfter t).pbs = s.pbs := rfl
@[simp] theorem benchAfter_tb (s t : State) : (s.benchAfter t).tb = s.tb := rfl
@[simp] theorem benchAfter_tbFill (s t : State) : (s.benchAfter t).tbFill = s.tbFill := rfl
@[simp] theorem benchAfter_port (s t : State) : (s.benchAfter t).port = s.port := rfl
@[simp] theorem benchAfter_grain (s t : State) : (s.benchAfter t).grain = s.grain := rfl
@[simp] theorem benchAfter_pending (s t : State) : (s.benchAfter t).pending = t.pending := rfl
@[simp] theorem benchAfter_turnScript (s t : State) : (s.benchAfter t).turnScript = s.turnScript := rfl
@[simp] theorem benchAfter_turnCount (s t : State) : (s.benchAfter t).turnCount = s.turnCount := rfl
@[simp] theorem benchAfter_busScript (s t : State) : (s.benchAfter t).busScript = t.busScript := rfl
@[simp] theorem benchAfter_busCount (s t : State) : (s.benchAfter t).busCount = t.busCount := rfl
@[simp] theorem benchAfter_kbdScript (s t : State) : (s.benchAfter t).kbdScript = t.kbdScript := rfl
@[simp] theorem benchAfter_kbdCount (s t : State) : (s.benchAfter t).kbdCount = t.kbdCount := rfl
@[simp] theorem benchAfter_traceD (s t : State) : (s.benchAfter t).traceD = s.traceD := rfl
@[simp] theorem benchAfter_traceK (s t : State) : (s.benchAfter t).traceK = s.traceK := rfl
@[simp] theorem benchAfter_rspD (s t : State) : (s.benchAfter t).rspD = s.rspD := rfl
@[simp] theorem benchAfter_rspK (s t : State) : (s.benchAfter t).rspK = s.rspK := rfl
@[simp] theorem benchAfter_bench (s t : State) : (s.benchAfter t).bench = ⟨t.sel, t.dc, t.tb, t.tbFill, t.traceD, t.altDown, t.ctrlDown, t.traceK⟩ := rfl
@[simp] theorem benchAfter_innerOut (s t : State) : (s.benchAfter t).innerOut = s.innerOut := rfl

@[simp] theorem onBench_cfg (s : State) : (s.onBench).cfg = s.cfg := rfl
@[simp] theorem onBench_seqD (s : State) : (s.onBench).seqD = s.seqD := rfl
@[simp] theorem onBench_seqK (s : State) : (s.onBench).seqK = s.seqK := rfl
@[simp] theorem onBench_colStart (s : State) : (s.onBench).colStart = s.colStart := rfl
@[simp] theorem onBench_colEnd (s : State) : (s.onBench).colEnd = s.colEnd := rfl
@[simp] theorem onBench_rowStart (s : State) : (s.onBench).rowStart = s.rowStart := rfl
@[simp] theorem onBench_rowEnd (s : State) : (s.onBench).rowEnd = s.rowEnd := rfl
@[simp] theorem onBench_sel (s : State) : (s.onBench).sel = s.bench.sel := rfl
@[simp] theorem onBench_dc (s : State) : (s.onBench).dc = s.bench.dc := rfl
@[simp] theorem onBench_rst (s : State) : (s.onBench).rst = s.rst := rfl
@[simp] theorem onBench_altDown (s : State) : (s.onBench).altDown = s.bench.altDown := rfl
@[simp] theorem onBench_ctrlDown (s : State) : (s.onBench).ctrlDown = s.bench.ctrlDown := rfl
@[simp] theorem onBench_pbmNext (s : State) : (s.onBench).pbmNext = s.pbmNext := rfl
@[simp] theorem onBench_pbmUsed (s : State) : (s.onBench).pbmUsed = s.pbmUsed := rfl
@[simp] theorem onBench_pbs (s : State) : (s.onBench).pbs = s.pbs := rfl
@[simp] theorem onBench_tb (s : State) : (s.onBench).tb = s.bench.tb := rfl
@[simp] theorem onBench_tbFill (s : State) : (s.onBench).tbFill = s.bench.tbFill := rfl
@[simp] theorem onBench_port (s : State) : (s.onBench).port = s.port := rfl
@[simp] theorem onBench_grain (s : State) : (s.onBench).grain = s.grain := rfl
@[simp] theorem onBench_pending (s : State) : (s.onBench).pending = s.pending := rfl
@[simp] theorem onBench_turnScript (s : State) : (s.onBench).turnScript = s.turnScript := rfl
@[simp] theorem onBench_turnCount (s : State) : (s.onBench).turnCount = s.turnCount := rfl
@[simp] theorem onBench_busScript (s : State) : (s.onBench).busScript = s.busScript := rfl
@[simp] theorem onBench_busCount (s : State) : (s.onBench).busCount = s.busCount := rfl
@[simp] theorem onBench_kbdScript (s : State) : (s.onBench).kbdScript = s.kbdScript := rfl
@[simp] theorem onBench_kbdCount (s : State) : (s.onBench).kbdCount = s.kbdCount := rfl
@[simp] theorem onBench_traceD (s : State) : (s.onBench).traceD = s.bench.traceD := rfl
@[simp] theorem onBench_traceK (s : State) : (s.onBench).traceK = s.bench.traceK := rfl
@[simp] theorem onBench_rspD (s : State) : (s.onBench).rspD = s.rspD := rfl
@[simp] theorem onBench_rspK (s : State) : (s.onBench).rspK = s.rspK := rfl
@[simp] theorem onBench_bench (s : State) : (s.onBench).bench = s.bench := rfl
@[simp] theorem onBench_innerOut (s : State) : (s.onBench).innerOut = s.innerOut := rfl

@[simp] theorem innerAnswer_cfg (s : State) (r : Response) : (s.innerAnswer r).cfg = s.cfg := rfl
@[simp] theorem innerAnswer_seqD (s : State) (r : Response) : (s.innerAnswer r).seqD = s.seqD := rfl
@[simp] theorem innerAnswer_seqK (s : State) (r : Response) : (s.innerAnswer r).seqK = s.seqK := rfl
@[simp] theorem innerAnswer_colStart (s : State) (r : Response) : (s.innerAnswer r).colStart = s.colStart := rfl
@[simp] theorem innerAnswer_colEnd (s : State) (r : Response) : (s.innerAnswer r).colEnd = s.colEnd := rfl
@[simp] theorem innerAnswer_rowStart (s : State) (r : Response) : (s.innerAnswer r).rowStart = s.rowStart := rfl
@[simp] theorem innerAnswer_rowEnd (s : State) (r : Response) : (s.innerAnswer r).rowEnd = s.rowEnd := rfl
@[simp] theorem innerAnswer_sel (s : State) (r : Response) : (s.innerAnswer r).sel = s.sel := rfl
@[simp] theorem innerAnswer_dc (s : State) (r : Response) : (s.innerAnswer r).dc = s.dc := rfl
@[simp] theorem innerAnswer_rst (s : State) (r : Response) : (s.innerAnswer r).rst = s.rst := rfl
@[simp] theorem innerAnswer_altDown (s : State) (r : Response) : (s.innerAnswer r).altDown = s.altDown := rfl
@[simp] theorem innerAnswer_ctrlDown (s : State) (r : Response) : (s.innerAnswer r).ctrlDown = s.ctrlDown := rfl
@[simp] theorem innerAnswer_pbmNext (s : State) (r : Response) : (s.innerAnswer r).pbmNext = s.pbmNext := rfl
@[simp] theorem innerAnswer_pbmUsed (s : State) (r : Response) : (s.innerAnswer r).pbmUsed = s.pbmUsed := rfl
@[simp] theorem innerAnswer_pbs (s : State) (r : Response) : (s.innerAnswer r).pbs = s.pbs := rfl
@[simp] theorem innerAnswer_tb (s : State) (r : Response) : (s.innerAnswer r).tb = s.tb := rfl
@[simp] theorem innerAnswer_tbFill (s : State) (r : Response) : (s.innerAnswer r).tbFill = s.tbFill := rfl
@[simp] theorem innerAnswer_port (s : State) (r : Response) : (s.innerAnswer r).port = s.port := rfl
@[simp] theorem innerAnswer_grain (s : State) (r : Response) : (s.innerAnswer r).grain = s.grain := rfl
@[simp] theorem innerAnswer_pending (s : State) (r : Response) : (s.innerAnswer r).pending = s.pending := rfl
@[simp] theorem innerAnswer_turnScript (s : State) (r : Response) : (s.innerAnswer r).turnScript = s.turnScript := rfl
@[simp] theorem innerAnswer_turnCount (s : State) (r : Response) : (s.innerAnswer r).turnCount = s.turnCount := rfl
@[simp] theorem innerAnswer_busScript (s : State) (r : Response) : (s.innerAnswer r).busScript = s.busScript := rfl
@[simp] theorem innerAnswer_busCount (s : State) (r : Response) : (s.innerAnswer r).busCount = s.busCount := rfl
@[simp] theorem innerAnswer_kbdScript (s : State) (r : Response) : (s.innerAnswer r).kbdScript = s.kbdScript := rfl
@[simp] theorem innerAnswer_kbdCount (s : State) (r : Response) : (s.innerAnswer r).kbdCount = s.kbdCount := rfl
@[simp] theorem innerAnswer_traceD (s : State) (r : Response) : (s.innerAnswer r).traceD = s.traceD := rfl
@[simp] theorem innerAnswer_traceK (s : State) (r : Response) : (s.innerAnswer r).traceK = s.traceK := rfl
@[simp] theorem innerAnswer_rspD (s : State) (r : Response) : (s.innerAnswer r).rspD = s.rspD := rfl
@[simp] theorem innerAnswer_rspK (s : State) (r : Response) : (s.innerAnswer r).rspK = s.rspK := rfl
@[simp] theorem innerAnswer_bench (s : State) (r : Response) : (s.innerAnswer r).bench = s.bench := rfl
@[simp] theorem innerAnswer_innerOut (s : State) (r : Response) : (s.innerAnswer r).innerOut = s.innerOut ++ [r] := rfl

@[simp] theorem windowSet_cfg (s : State) (x y w h : Int) : (s.windowSet x y w h).cfg = s.cfg := rfl
@[simp] theorem windowSet_seqD (s : State) (x y w h : Int) : (s.windowSet x y w h).seqD = s.seqD := rfl
@[simp] theorem windowSet_seqK (s : State) (x y w h : Int) : (s.windowSet x y w h).seqK = s.seqK := rfl
@[simp] theorem windowSet_colStart (s : State) (x y w h : Int) : (s.windowSet x y w h).colStart = trunc16 x := rfl
@[simp] theorem windowSet_colEnd (s : State) (x y w h : Int) : (s.windowSet x y w h).colEnd = trunc16 (x + w - 1) := rfl
@[simp] theorem windowSet_rowStart (s : State) (x y w h : Int) : (s.windowSet x y w h).rowStart = trunc16 y := rfl
@[simp] theorem windowSet_rowEnd (s : State) (x y w h : Int) : (s.windowSet x y w h).rowEnd = trunc16 (y + h - 1) := rfl
@[simp] theorem windowSet_sel (s : State) (x y w h : Int) : (s.windowSet x y w h).sel = s.sel := rfl
@[simp] theorem windowSet_dc (s : State) (x y w h : Int) : (s.windowSet x y w h).dc = s.dc := rfl
@[simp] theorem windowSet_rst (s : State) (x y w h : Int) : (s.windowSet x y w h).rst = s.rst := rfl
@[simp] theorem windowSet_altDown (s : State) (x y w h : Int) : (s.windowSet x y w h).altDown = s.altDown := rfl
@[simp] theorem windowSet_ctrlDown (s : State) (x y w h : Int) : (s.windowSet x y w h).ctrlDown = s.ctrlDown := rfl
@[simp] theorem windowSet_pbmNext (s : State) (x y w h : Int) : (s.windowSet x y w h).pbmNext = s.pbmNext := rfl
@[simp] theorem windowSet_pbmUsed (s : State) (x y w h : Int) : (s.windowSet x y w h).pbmUsed = s.pbmUsed := rfl
@[simp] theorem windowSet_pbs (s : State) (x y w h : Int) : (s.windowSet x y w h).pbs = s.pbs := rfl
@[simp] theorem windowSet_tb (s : State) (x y w h : Int) : (s.windowSet x y w h).tb = s.tb := rfl
@[simp] theorem windowSet_tbFill (s : State) (x y w h : Int) : (s.windowSet x y w h).tbFill = s.tbFill := rfl
@[simp] theorem windowSet_port (s : State) (x y w h : Int) : (s.windowSet x y w h).port = s.port := rfl
@[simp] theorem windowSet_grain (s : State) (x y w h : Int) : (s.windowSet x y w h).grain = s.grain := rfl
@[simp] theorem windowSet_pending (s : State) (x y w h : Int) : (s.windowSet x y w h).pending = s.pending := rfl
@[simp] theorem windowSet_turnScript (s : State) (x y w h : Int) : (s.windowSet x y w h).turnScript = s.turnScript := rfl
@[simp] theorem windowSet_turnCount (s : State) (x y w h : Int) : (s.windowSet x y w h).turnCount = s.turnCount := rfl
@[simp] theorem windowSet_busScript (s : State) (x y w h : Int) : (s.windowSet x y w h).busScript = s.busScript := rfl
@[simp] theorem windowSet_busCount (s : State) (x y w h : Int) : (s.windowSet x y w h).busCount = s.busCount := rfl
@[simp] theorem windowSet_kbdScript (s : State) (x y w h : Int) : (s.windowSet x y w h).kbdScript = s.kbdScript := rfl
@[simp] theorem windowSet_kbdCount (s : State) (x y w h : Int) : (s.windowSet x y w h).kbdCount = s.kbdCount := rfl
@[simp] theorem windowSet_traceD (s : State) (x y w h : Int) : (s.windowSet x y w h).traceD = s.traceD := rfl
@[simp] theorem windowSet_traceK (s : State) (x y w h : Int) : (s.windowSet x y w h).traceK = s.traceK := rfl
@[simp] theorem windowSet_rspD (s : State) (x y w h : Int) : (s.windowSet x y w h).rspD = s.rspD := rfl
@[simp] theorem windowSet_rspK (s : State) (x y w h : Int) : (s.windowSet x y w h).rspK = s.rspK := rfl
@[simp] theorem windowSet_bench (s : State) (x y w h : Int) : (s.windowSet x y w h).bench = s.bench := rfl
@[simp] theorem windowSet_innerOut (s : State) (x y w h : Int) : (s.windowSet x y w h).innerOut = s.innerOut := rfl

@[simp] theorem writeCache_col (a b : Half) (s : State) :
    writeCache (.col a b) s = { s with colStart := a, colEnd := b } := rfl
@[simp] theorem writeCache_row (a b : Half) (s : State) :
    writeCache (.row a b) s = { s with rowStart := a, rowEnd := b } := rfl

end Sys2Proof.Machine
end

