-- ==== Sys2Proof/Laws/Memory.lean ====
section
/-!
SUPPORT. TB as memory: reading after writing, its size, and what is transmitted after a chunk was staged.
-/

namespace Sys2Proof.Machine

/-- Reading a byte just written gives that byte. -/
theorem read_overlay_inside (m : Memory) (bs : List Byte) (i : Nat) (hi : i < bs.length) :
    Memory.read (Memory.overlay m bs) i = some bs[i] := by
  simp [Memory.read, Memory.overlay, List.getElem?_append, hi]

/-- Writing leaves every other address alone. -/
theorem read_overlay_outside (m : Memory) (bs : List Byte) (i : Nat) (hi : bs.length ≤ i) :
    Memory.read (Memory.overlay m bs) i = Memory.read m i := by
  simp [Memory.read, Memory.overlay, List.getElem?_append_right hi, hi]

/-- Writing a chunk that fits keeps the size of TB. -/
theorem overlay_wf {cap : Nat} {m : Memory} {bs : List Byte} (hm : Memory.wf cap m) (h : bs.length ≤ cap) :
    Memory.wf cap (Memory.overlay m bs) := by
  unfold Memory.wf at *
  simp only [Memory.overlay, List.length_append, List.length_drop]
  omega

theorem stageAll_wf {cap : Nat} {m : Memory} (hm : Memory.wf cap m) {cs : List (List Byte)}
    (h : ∀ c ∈ cs, c.length ≤ cap) : Memory.wf cap (stageAll cs m) := by
  induction cs generalizing m with
  | nil => exact hm
  | cons c cs ih =>
    exact ih (overlay_wf hm (h c List.mem_cons_self)) fun d hd => h d (List.mem_cons_of_mem _ hd)

/-- What is flushed is what was staged (41_bus_transport.md R131). -/
@[simp] theorem front_overlay (m : Memory) (bs : List Byte) : Memory.front (Memory.overlay m bs) bs.length = bs := by
  simp [Memory.front, Memory.overlay]

@[simp] theorem freeBytes_length (n a : Nat) : (Config.freeBytes n a).length = n := by
  induction n generalizing a with
  | zero => rfl
  | succ n ih => simp [Config.freeBytes, ih]

/-- Reset's TB has `BUF_CAP` bytes (R30). -/
theorem reset_tb_wf : Memory.wf State.reset.cfg.bufCap State.reset.tb := freeBytes_length _ _

/-- So has the bench's. -/
theorem reset_bench_wf : Memory.wf State.reset.cfg.bufCap State.reset.bench.tb := freeBytes_length _ _

end Sys2Proof.Machine
end

