-- ==== Sys2Proof/Laws/Sequencer.lean ====
section
/-!
SUPPORT. What a move, a sequence of moves and a whole operation can do, said once: success, failure, and the state a
finished operation leaves.
-/

namespace Sys2Proof.Machine

/-! ### One move -/

/-- A transaction that succeeded. -/
def sent (bs : List Byte) (s : State) : State :=
  { s with traceD := s.traceD ++ [.xfer bs], tbFill := 0, busScript := s.busScript.tail, busCount := s.busCount + 1 }

/-- The payload of a move's transaction, if it makes one. -/
def Act.payload : Act → Option (List Byte)
  | .send b _ => some [b]
  | .chunk bs _ => some bs
  | _ => none

/-- The window frame a move's transaction belongs to. -/
def Act.frame : Act → Option CacheWrite
  | .send _ f => f
  | .chunk _ f => f
  | _ => none

/-- The state in which a move's transaction is made. -/
def Act.ready (a : Act) (s : State) : State :=
  match a with
  | .chunk bs _ => stage bs s
  | _ => s

/-- What a move does when its transaction, if it makes one, succeeds. -/
def Act.apply (a : Act) (s : State) : State :=
  match a with
  | .drive pin level => driveOp pin level s
  | .send b _ => sent [b] s
  | .clearFill => { s with tbFill := 0 }
  | .chunk bs _ => sent bs (stage bs s)
  | .wait ms => waitOp ms s
  | .cache c => writeCache c s
  | .pbNew w h => pbNewOp w h s
  | .pbWrite pb i c => pbWriteOp pb i c s
  | .pbFillAll pb c => pbFillOp pb c s

/-- The state a failing transaction leaves. -/
def failed (bs : List Byte) (frame : Option CacheWrite) (d : FailDraw) (s : State) : State :=
  drawAfterFail frame d (sent bs s)

theorem transmit_ok {bs : List Byte} {f : Option CacheWrite} {s : State} (h : s.busAnswer = .ok) :
    transmit bs f s = (sent bs s, none) := by
  simp only [transmit, h]; rfl

theorem transmit_fail {bs : List Byte} {f : Option CacheWrite} {s : State} {e : BusErr} {d : FailDraw}
    (h : s.busAnswer = .fail e d) : transmit bs f s = (failed bs f d s, some (Response.busFailed e)) := by
  simp only [transmit, h]; rfl

/-- A move that makes no transaction succeeds. -/
theorem perform_quiet {a : Act} {s : State} (h : a.payload = none) : perform a s = (a.apply s, none) := by
  cases a <;> first | rfl | cases h

/-- A transaction that the bus answers well succeeds. -/
theorem perform_ok {a : Act} {s : State} (h : s.busAnswer = .ok) : perform a s = (a.apply s, none) := by
  cases a with
  | send b f => exact transmit_ok h
  | chunk bs f =>
    show transmit (Memory.front (Memory.overlay s.tb bs) bs.length) f (stage bs s) = _
    rw [front_overlay]
    exact transmit_ok h
  | _ => rfl

/-- A transaction that the bus fails ends the operation. -/
theorem perform_fail {a : Act} {s : State} {bs : List Byte} {e : BusErr} {d : FailDraw} (ha : a.payload = some bs)
    (h : s.busAnswer = .fail e d) :
    perform a s = (failed bs a.frame d (a.ready s), some (Response.busFailed e)) := by
  cases a with
  | send b f => cases ha; exact transmit_fail h
  | chunk bs f =>
    cases ha
    show transmit (Memory.front (Memory.overlay s.tb bs) bs.length) f (stage bs s) = _
    rw [front_overlay]
    exact transmit_fail h
  | _ => cases ha

/-- Every outcome of a move. -/
theorem perform_cases (a : Act) (s : State) :
    perform a s = (a.apply s, none) ∨
      ∃ bs e d, a.payload = some bs ∧ s.busAnswer = .fail e d ∧
        perform a s = (failed bs a.frame d (a.ready s), some (Response.busFailed e)) := by
  cases hp : a.payload with
  | none => exact .inl (perform_quiet hp)
  | some bs =>
    cases hb : s.busAnswer with
    | ok => exact .inl (perform_ok hb)
    | fail e d => exact .inr ⟨bs, e, d, rfl, rfl, perform_fail hp hb⟩

/-- A move neither reads nor writes the sequencer. -/
theorem perform_seqD (a : Act) (s : State) (q : SeqD) :
    perform a { s with seqD := q } = ({ (perform a s).1 with seqD := q }, (perform a s).2) := by
  have hb : ({ s with seqD := q } : State).busAnswer = s.busAnswer := rfl
  cases a with
  | drive pin level => cases pin <;> rfl
  | cache c => cases c <;> rfl
  | send b f =>
    cases h : s.busAnswer with
    | ok => rw [perform_ok h, perform_ok (hb.trans h)]; rfl
    | fail e d =>
      rw [perform_fail (a := .send b f) rfl h, perform_fail (a := .send b f) rfl (hb.trans h)]
      cases f with
      | none => rfl
      | some c => cases c <;> cases hd : d.cacheNew <;> simp [failed, drawAfterFail, hd, Act.frame, Act.ready, sent]
  | chunk bs f =>
    cases h : s.busAnswer with
    | ok => rw [perform_ok h, perform_ok (hb.trans h)]; rfl
    | fail e d =>
      rw [perform_fail (a := .chunk bs f) rfl h, perform_fail (a := .chunk bs f) rfl (hb.trans h)]
      cases f with
      | none => rfl
      | some c =>
        cases c <;> cases hd : d.cacheNew <;> simp [failed, drawAfterFail, hd, Act.frame, Act.ready, sent, stage]
  | _ => rfl

/-! ### A sequence of moves -/

/-- Moves, all of which succeed. -/
def applyAll (acts : List Act) (s : State) : State := acts.foldl (fun s a => a.apply s) s

@[simp] theorem applyAll_nil (s : State) : applyAll [] s = s := rfl
@[simp] theorem applyAll_cons (a : Act) (acts : List Act) (s : State) :
    applyAll (a :: acts) s = applyAll acts (a.apply s) := rfl
theorem applyAll_append (as bs : List Act) (s : State) : applyAll (as ++ bs) s = applyAll bs (applyAll as s) := by
  simp [applyAll]

/-- How many transactions moves make. -/
def transactions (acts : List Act) : Nat := acts.countP (fun a => a.payload.isSome)

theorem transactions_append (as bs : List Act) : transactions (as ++ bs) = transactions as + transactions bs :=
  List.countP_append ..

/-- The next answer is the one at place 0. -/
theorem busAnswer_eq_busAt (s : State) : s.busAnswer = s.busAt 0 := by
  unfold State.busAnswer State.busAt
  cases s.busScript <;> rfl

/-- A transaction moves the answers up by one place. -/
theorem busAt_of_tail {s t : State} (hs : t.busScript = s.busScript.tail) (hc : t.busCount = s.busCount + 1) (j : Nat) :
    t.busAt j = s.busAt (j + 1) := by
  unfold State.busAt
  rw [hs, hc, Nat.add_right_comm, Nat.add_assoc]
  cases s.busScript with
  | nil => rfl
  | cons a l => rfl

theorem busAt_congr {s t : State} (hs : t.busScript = s.busScript) (hc : t.busCount = s.busCount) (j : Nat) :
    t.busAt j = s.busAt j := by
  unfold State.busAt
  rw [hs, hc]

/-- After a move the answers are those after its transaction, or the same if it made none. -/
theorem busAt_apply (a : Act) (s : State) (j : Nat) :
    (a.apply s).busAt j = s.busAt (j + if a.payload.isSome then 1 else 0) := by
  cases a with
  | send b f => exact busAt_of_tail rfl rfl j
  | chunk bs f => exact busAt_of_tail rfl rfl j
  | drive pin level => exact busAt_congr (by simp [Act.apply]) (by simp [Act.apply]) j
  | cache c => exact busAt_congr (by simp only [Act.apply, writeCache_busScript]) (by simp only [Act.apply, writeCache_busCount]) j
  | _ => exact busAt_congr rfl rfl j

theorem busOk_apply {a : Act} {acts : List Act} {s : State} (h : s.BusOk (transactions (a :: acts))) :
    (a.apply s).BusOk (transactions acts) := by
  intro j hj
  rw [busAt_apply]
  apply h
  unfold transactions at *
  rw [List.countP_cons]
  split <;> simp_all

/-- If every transaction succeeds, every move is made. -/
theorem performAll_ok {acts : List Act} {s : State} (h : s.BusOk (transactions acts)) :
    performAll acts s = (applyAll acts s, none) := by
  induction acts generalizing s with
  | nil => rfl
  | cons a acts ih =>
    have hp : perform a s = (a.apply s, none) := by
      cases ha : a.payload with
      | none => exact perform_quiet ha
      | some bs =>
        refine perform_ok ((busAnswer_eq_busAt s).trans (h 0 ?_))
        simp [transactions, ha]
    simp only [performAll, hp, applyAll_cons]
    exact ih (busOk_apply h)

theorem performAll_append (as bs : List Act) (s : State) :
    performAll (as ++ bs) s = match performAll as s with
      | (t, none) => performAll bs t
      | (t, some r) => (t, some r) := by
  induction as generalizing s with
  | nil => rfl
  | cons a as ih =>
    rw [List.cons_append, performAll, performAll]
    rcases perform a s with ⟨t, _ | r⟩
    · exact ih t
    · rfl

theorem performAll_seqD (acts : List Act) (s : State) (q : SeqD) :
    performAll acts { s with seqD := q } = ({ (performAll acts s).1 with seqD := q }, (performAll acts s).2) := by
  induction acts generalizing s with
  | nil => rfl
  | cons a acts ih =>
    simp only [performAll, perform_seqD]
    rcases perform a s with ⟨t, _ | r⟩
    · exact ih t
    · rfl

/-- Every outcome of a sequence of moves: all succeed, or one fails after others that succeeded and nothing follows. -/
theorem performAll_cases (acts : List Act) (s : State) :
    performAll acts s = (applyAll acts s, none) ∨
      ∃ before a after bs e d, acts = before ++ a :: after ∧ a.payload = some bs ∧
        (applyAll before s).busAnswer = .fail e d ∧
        performAll acts s =
          (failed bs a.frame d (a.ready (applyAll before s)), some (Response.busFailed e)) := by
  induction acts generalizing s with
  | nil => exact .inl rfl
  | cons a acts ih =>
    rcases perform_cases a s with h | ⟨bs, e, d, hp, hb, h⟩
    · rcases ih (a.apply s) with hr | ⟨before, a', after, bs, e, d, rfl, hp, hb, hr⟩
      · exact .inl (by simp only [performAll, h, hr, applyAll_cons])
      · exact .inr ⟨a :: before, a', after, bs, e, d, rfl, hp, hb, by simp only [performAll, h, hr, applyAll_cons]⟩
    · exact .inr ⟨[], a, acts, bs, e, d, rfl, hp, hb, by simp only [performAll, h, applyAll_nil]⟩

/-! ### A whole operation -/

/-- What an accepted plan leaves on HOP_D: its reply, or that of the move that failed. -/
def settleD (plan : Plan) (s : State) : State :=
  match performAll plan.acts s with
  | (t, none) => respondD plan.reply t
  | (t, some r) => respondD r t

/-- What an accepted plan leaves on HOP_K. -/
def settleK (plan : Plan) (s : State) : State :=
  if plan.poll then respondK (pollKeyboard s).2 (pollKeyboard s).1 else respondK plan.reply s

theorem respondD_seqD_irrelevant (r : Response) (s : State) (q : SeqD) :
    respondD r { s with seqD := q } = respondD r s := rfl

theorem advancesD_idle (n : Nat) (s : State) (h : s.seqD = .idle) : advancesD n s = s := by
  induction n with
  | zero => rfl
  | succ n ih => rw [advancesD, show advanceD s = s by simp [advanceD, h], ih]

/-- Running HOP_D's operation move by move does what `settleD` says. -/
theorem advancesD_busy (acts : List Act) (sel : Byte) (k : Nat) (r : Response) (s : State) :
    advancesD (acts.length + 1) { s with seqD := .busy sel k acts r } = settleD ⟨acts, false, r⟩ s := by
  induction acts generalizing s k with
  | nil => rfl
  | cons a acts ih =>
    rw [List.length_cons, advancesD]
    simp only [advanceD, perform_seqD, settleD, performAll]
    rcases perform a s with ⟨t, _ | e⟩
    · exact ih (k + a.events) t
    · rw [advancesD]
      exact advancesD_idle _ _ rfl

theorem finishD_busy (s : State) (sel : Byte) (k : Nat) (acts : List Act) (r : Response) :
    finishD { s with seqD := .busy sel k acts r } = settleD ⟨acts, false, r⟩ s :=
  advancesD_busy acts sel k r s

theorem pollKeyboard_seqK (s : State) (q : SeqK) :
    pollKeyboard { s with seqK := q } = ({ (pollKeyboard s).1 with seqK := q }, (pollKeyboard s).2) := by
  have hb : ({ s with seqK := q } : State).kbdAnswer = s.kbdAnswer := rfl
  simp only [pollKeyboard, kbdTransaction, hb]
  rcases s.kbdAnswer with ⟨t, k⟩ | e
  · simp only [classify]
    split <;> simp only [keyNone, keyDown, keyHeld, keyUp, keyInvalid, setLatch, State.isModifier] <;>
      repeat (first | rfl | split)
  · rfl

theorem finishK_busy (s : State) (sel : Byte) (k : Nat) (poll : Bool) (r : Response) :
    finishK { s with seqK := .busy sel k poll r } = settleK ⟨[], poll, r⟩ s := by
  cases poll with
  | false => rfl
  | true =>
    simp only [finishK, advanceK, settleK, pollKeyboard_seqK]
    rfl

theorem accept_hopD {sel : Byte} {plan : Plan} {s : State} (h : s.port = .hopD) :
    accept sel plan s = { s with seqD := .busy sel 0 plan.acts plan.reply } := by
  unfold accept
  split
  · rfl
  · simp_all

theorem accept_hopK {sel : Byte} {plan : Plan} {s : State} (h : s.port = .hopK) :
    accept sel plan s = { s with seqK := .busy sel 0 plan.poll plan.reply } := by
  unfold accept
  split
  · simp_all
  · rfl

theorem finish_hopD {s : State} (h : s.port = .hopD) : finish s = finishD s := by simp only [finish, h]
theorem finish_hopK {s : State} (h : s.port = .hopK) : finish s = finishK s := by simp only [finish, h]

/-- A plan on a ready HOP_D ends in a next state: `settleD`. -/
theorem runHost_hopD {sel : Byte} {plan : Plan} {s : State} (h : s.Ready .hopD) :
    runHost sel plan s = .next (settleD plan s) := by
  obtain ⟨hp, hb, hg⟩ := h
  simp only [runHost, hb, hg, Bool.false_eq_true, if_false]
  rw [accept_hopD hp, finish_hopD (by exact hp), finishD_busy]
  rfl

/-- A plan on a ready HOP_K ends in a next state: `settleK`. -/
theorem runHost_hopK {sel : Byte} {plan : Plan} {s : State} (h : s.Ready .hopK) :
    runHost sel plan s = .next (settleK plan s) := by
  obtain ⟨hp, hb, hg⟩ := h
  simp only [runHost, hb, hg, Bool.false_eq_true, if_false]
  rw [accept_hopK hp, finish_hopK (by exact hp), finishK_busy]
  rfl

theorem hostOp_onD {sel : Byte} {plan : State → Plan} {s : State} (h : s.Ready .hopD) :
    hostOp sel onD plan s = .next (settleD (plan s) s) := by
  simp only [hostOp, h.1, onD, if_true, runHost_hopD h]

theorem hostOp_onK {sel : Byte} {plan : State → Plan} {s : State} (h : s.Ready .hopK) :
    hostOp sel onK plan s = .next (settleK (plan s) s) := by
  simp only [hostOp, h.1, onK, if_true, runHost_hopK h]

/-- A plan whose transactions all succeed. -/
theorem settleD_ok {plan : Plan} {s : State} (h : s.BusOk (transactions plan.acts)) :
    settleD plan s = respondD plan.reply (applyAll plan.acts s) := by
  simp only [settleD, performAll_ok h]

/-- A reply without a move. -/
@[simp] theorem settleD_answer (r : Response) (s : State) : settleD (Plan.answer r) s = respondD r s := rfl
@[simp] theorem settleK_answer (r : Response) (s : State) : settleK (Plan.answer r) s = respondK r s := rfl

/-- A host operation that only answers, on any port that takes it. -/
theorem runHost_answer {sel : Byte} {r : Response} {s : State} {p : Port} (h : s.Ready p) :
    runHost sel (Plan.answer r) s = .next (s.replied p r) := by
  cases p with
  | hopD => exact runHost_hopD h
  | hopK => exact runHost_hopK h

end Sys2Proof.Machine
end

