-- ==== Sys2Proof/Laws/Display.lean ====
section
/-!
SUPPORT. What the display side's procedures show on the bus and leave behind when every transaction succeeds.
-/

namespace Sys2Proof.Machine

/-! ### Composing what is shown -/

@[simp] theorem xferCount_append (a b : List DispEvent) : xferCount (a ++ b) = xferCount a + xferCount b :=
  List.countP_append ..

@[simp] theorem levelAfter_append (p : Pin) (a b : List DispEvent) (l : Bool) :
    levelAfter p (a ++ b) l = levelAfter p b (levelAfter p a l) := List.foldl_append ..

@[simp] theorem stageAll_append (a b : List (List Byte)) (m : Memory) :
    stageAll (a ++ b) m = stageAll b (stageAll a m) := List.foldl_append ..

@[simp] theorem shows_nil (s : State) : s.shows [] [] = s := by
  simp [State.shows, levelAfter, stageAll, xferCount]

theorem shows_shows (s : State) (a b : List DispEvent) (c d : List (List Byte)) :
    (s.shows a c).shows b d = s.shows (a ++ b) (c ++ d) := by
  simp [State.shows, List.drop_drop, Nat.add_assoc]

/-- `TB_FILL` is no part of what is shown. -/
theorem filled_shows (s : State) (n : Nat) (a : List DispEvent) (c : List (List Byte)) :
    (s.filled n).shows a c = (s.shows a c).filled n := rfl

@[simp] theorem filled_filled (s : State) (m n : Nat) : (s.filled m).filled n = s.filled n := rfl
@[simp] theorem filled_same (s : State) : s.filled s.tbFill = s := rfl

/-- The window cache is no part of what is shown. -/
theorem writeCache_shows (s : State) (w : CacheWrite) (a : List DispEvent) (c : List (List Byte)) :
    (writeCache w s).shows a c = writeCache w (s.shows a c) := by
  cases w <;> rfl

theorem levelAfter_xfers (p : Pin) (cs : List (List Byte)) (l : Bool) :
    levelAfter p (cs.map .xfer) l = l := by
  induction cs with
  | nil => rfl
  | cons c cs ih => exact ih

theorem xferCount_xfers (cs : List (List Byte)) : xferCount (cs.map .xfer) = cs.length := by
  induction cs with
  | nil => rfl
  | cons c cs ih =>
    rw [List.length_cons, ← ih]
    simp [xferCount]

/-! ### Streams (R131) -/

theorem sent_stage (bs : List Byte) (s : State) :
    sent bs (stage bs s) = (s.shows [.xfer bs] [bs]).filled 0 := by
  simp [sent, stage, State.shows, State.filled, levelAfter, stageAll, xferCount]

theorem applyAll_chunks (cs : List (List Byte)) (f : Option CacheWrite) (s : State) (h : s.tbFill = 0) :
    applyAll (cs.map (fun c => .chunk c f)) s = s.shows (cs.map .xfer) cs := by
  induction cs generalizing s with
  | nil => simp
  | cons c cs ih =>
    have e : sent c (stage c s) = s.shows [.xfer c] [c] := by
      rw [sent_stage]
      cases s
      simp_all [State.shows, State.filled]
    simp only [List.map_cons, applyAll_cons, Act.apply, e]
    rw [ih _ (by simpa using h), shows_shows]
    rfl

/-- `Stream` shows its chunks and leaves `TB_FILL = 0`. -/
theorem applyAll_stream (cfg : Params) (unit : Nat) (bytes : List Byte) (f : Option CacheWrite) (s : State) :
    applyAll (streamActs cfg unit bytes f) s =
      (s.shows ((chunks cfg.bufCap unit bytes).map .xfer) (chunks cfg.bufCap unit bytes)).filled 0 := by
  rw [streamActs, applyAll_cons, applyAll_chunks _ _ _ rfl]
  rfl

theorem transactions_chunks (cs : List (List Byte)) (f : Option CacheWrite) :
    transactions (cs.map (fun c => .chunk c f)) = cs.length := by
  induction cs with
  | nil => rfl
  | cons c cs ih =>
    rw [List.length_cons, ← ih]
    simp [transactions, Act.payload]

theorem transactions_stream (cfg : Params) (unit : Nat) (bytes : List Byte) (f : Option CacheWrite) :
    transactions (streamActs cfg unit bytes f) = (chunks cfg.bufCap unit bytes).length := by
  rw [streamActs, ← transactions_chunks _ f]
  simp [transactions, Act.payload]

/-! ### Command frames (R150) -/

/-- The opening of a frame: select, command mode, the opcode, data mode. -/
theorem applyAll_opening (op : Byte) (f : Option CacheWrite) (s : State) :
    applyAll [.drive .sel false, .drive .dc false, .send op f, .drive .dc true] s =
      (s.shows [.drive .sel false, .drive .dc false, .xfer [op], .drive .dc true] []).filled 0 := by
  simp [Act.apply, driveOp, sent, State.shows, State.filled, levelAfter, stageAll, xferCount]

theorem applyAll_select (level : Bool) (s : State) :
    applyAll [.drive .sel level] s = s.shows [.drive .sel level] [] := by
  simp [Act.apply, driveOp, State.shows, levelAfter, stageAll, xferCount]

theorem applyAll_sendCommand (cfg : Params) (op : Byte) (data : List Byte) (f : Option CacheWrite) (s : State) :
    applyAll (sendCommand cfg op data f) s =
      (s.shows (frameEvents cfg.bufCap op data) (chunks cfg.bufCap 1 data)).filled 0 := by
  unfold sendCommand frameEvents
  rw [applyAll_append, applyAll_append, applyAll_opening, applyAll_stream, applyAll_select]
  simp only [filled_shows, shows_shows, filled_filled, List.nil_append, List.append_nil]

theorem transactions_sendCommand (cfg : Params) (op : Byte) (data : List Byte) (f : Option CacheWrite) :
    transactions (sendCommand cfg op data f) = xferCount (frameEvents cfg.bufCap op data) := by
  unfold sendCommand frameEvents
  rw [transactions_append, transactions_append, transactions_stream, xferCount_append, xferCount_append,
    xferCount_xfers]
  rfl

theorem chunks_nil (cap unit : Nat) : chunks cap unit [] = [] := rfl

theorem applyAll_memWrite (cfg : Params) (bytes : List Byte) (s : State) :
    applyAll (memWriteStream cfg bytes) s =
      (s.shows (memWriteEvents cfg.bufCap bytes) (chunks cfg.bufCap 2 bytes)).filled 0 := by
  unfold memWriteStream memWriteEvents
  rw [applyAll_append, applyAll_append, applyAll_append, applyAll_sendCommand, applyAll_stream, applyAll_select,
    applyAll_select]
  simp only [filled_shows, shows_shows, filled_filled, chunks_nil, List.nil_append, List.append_nil]

theorem transactions_memWrite (cfg : Params) (bytes : List Byte) :
    transactions (memWriteStream cfg bytes) = xferCount (memWriteEvents cfg.bufCap bytes) := by
  unfold memWriteStream memWriteEvents
  rw [transactions_append, transactions_append, transactions_append, transactions_sendCommand, transactions_stream,
    xferCount_append, xferCount_append, xferCount_append, xferCount_xfers]
  rfl

/-! ### Windows (R153) -/

theorem frameEvents_ne_nil (cap : Nat) (op : Byte) (data : List Byte) : frameEvents cap op data ≠ [] := by
  simp [frameEvents]

theorem writeCache_filled (s : State) (w : CacheWrite) (n : Nat) :
    writeCache w (s.filled n) = (writeCache w s).filled n := by
  cases w <;> rfl

theorem writeCache_col_same {s : State} {a b : Half} (ha : a = s.colStart) (hb : b = s.colEnd) :
    writeCache (.col a b) s = s := by
  subst ha hb; rfl

theorem writeCache_row_same {s : State} {a b : Half} (ha : a = s.rowStart) (hb : b = s.rowEnd) :
    writeCache (.row a b) s = s := by
  subst ha hb; rfl

theorem applyAll_column (s t : State) (a b : Half) (h : (t.colStart, t.colEnd) = (s.colStart, s.colEnd)) :
    applyAll (columnActs s a b) t =
      (writeCache (.col a b) (t.shows (columnEvents s a b) (columnStaged s a b))).filled
        (if columnEvents s a b = [] then t.tbFill else 0) := by
  unfold columnActs columnEvents columnStaged
  split
  · rename_i he
    rw [Prod.mk.injEq] at he h
    rw [shows_nil, writeCache_col_same (he.1.trans h.1.symm) (he.2.trans h.2.symm)]
    rfl
  · rw [applyAll_append, applyAll_sendCommand, if_neg (frameEvents_ne_nil _ _ _), ← writeCache_filled]
    rfl

theorem applyAll_row (s t : State) (a b : Half) (h : (t.rowStart, t.rowEnd) = (s.rowStart, s.rowEnd)) :
    applyAll (rowActs s a b) t =
      (writeCache (.row a b) (t.shows (rowEvents s a b) (rowStaged s a b))).filled
        (if rowEvents s a b = [] then t.tbFill else 0) := by
  unfold rowActs rowEvents rowStaged
  split
  · rename_i he
    rw [Prod.mk.injEq] at he h
    rw [shows_nil, writeCache_row_same (he.1.trans h.1.symm) (he.2.trans h.2.symm)]
    rfl
  · rw [applyAll_append, applyAll_sendCommand, if_neg (frameEvents_ne_nil _ _ _), ← writeCache_filled]
    rfl

/-- `SetWindow`, all transactions succeeding, leaves what `State.windowed` says. -/
theorem applyAll_window (s : State) (x y w h : Int) : applyAll (windowActs s x y w h) s = s.windowed x y w h := by
  unfold windowActs State.windowed windowEvents windowStaged
  rw [applyAll_append, applyAll_column s s _ _ rfl, applyAll_row s _ _ _ (by simp), ← shows_shows]
  simp only [filled_shows, writeCache_shows, writeCache_filled, filled_filled, List.append_eq_nil_iff, filled_tbFill]
  congr 1
  by_cases h1 : columnEvents s (trunc16 x) (trunc16 (x + w - 1)) = [] <;> simp [h1]

theorem transactions_window (s : State) (x y w h : Int) :
    transactions (windowActs s x y w h) = xferCount (windowEvents s x y w h) := by
  unfold windowActs windowEvents columnActs columnEvents rowActs rowEvents
  rw [transactions_append, xferCount_append]
  congr 1 <;> split <;> first | rfl | (rw [transactions_append, transactions_sendCommand]; rfl)

theorem windowSet_shows (s : State) (x y w h : Int) (a : List DispEvent) (c : List (List Byte)) :
    (s.windowSet x y w h).shows a c = (s.shows a c).windowSet x y w h := rfl

theorem windowSet_filled (s : State) (x y w h : Int) (n : Nat) :
    (s.filled n).windowSet x y w h = (s.windowSet x y w h).filled n := rfl

/-- A drawing primitive, all transactions succeeding, leaves what `State.drawn` says. -/
theorem applyAll_paint (s : State) (x y w h : Int) (bytes : List Byte) :
    applyAll (paintActs s x y w h bytes) s = s.drawn x y w h bytes := by
  unfold paintActs State.drawn paintEvents
  rw [applyAll_append, applyAll_window, applyAll_memWrite, ← shows_shows]
  simp only [State.windowed, filled_shows, windowSet_shows, filled_filled]

theorem transactions_paint (s : State) (x y w h : Int) (bytes : List Byte) :
    transactions (paintActs s x y w h bytes) = xferCount (paintEvents s x y w h bytes) := by
  unfold paintActs paintEvents
  rw [transactions_append, transactions_window, transactions_memWrite, xferCount_append]

end Sys2Proof.Machine
end

