-- ==== Sys2Proof/Laws/Failure.lean ====
section
/-!
SUPPORT. The events of a sequence of moves, and what an operation leaves when its `j`-th transaction is the first to
fail (60_exceptions.md R237, R239).
-/

namespace Sys2Proof.Machine

/-- The events a move records if it succeeds. -/
def Act.shown : Act → List DispEvent
  | .drive pin level => [.drive pin level]
  | .send b _ => [.xfer [b]]
  | .chunk bs _ => [.xfer bs]
  | .wait ms => [.wait ms]
  | _ => []

/-- The events of moves that all succeed. -/
def shown (acts : List Act) : List DispEvent := acts.flatMap Act.shown

@[simp] theorem shown_nil : shown [] = [] := rfl
@[simp] theorem shown_cons (a : Act) (acts : List Act) : shown (a :: acts) = a.shown ++ shown acts := rfl
@[simp] theorem shown_append (as bs : List Act) : shown (as ++ bs) = shown as ++ shown bs := List.flatMap_append

theorem shown_chunks (cs : List (List Byte)) (f : Option CacheWrite) :
    shown (cs.map (fun c => .chunk c f)) = cs.map .xfer := by
  induction cs with
  | nil => rfl
  | cons c cs ih => simp [Act.shown, ih]

@[simp] theorem shown_stream (cfg : Params) (unit : Nat) (bytes : List Byte) (f : Option CacheWrite) :
    shown (streamActs cfg unit bytes f) = (chunks cfg.bufCap unit bytes).map .xfer := by
  rw [streamActs, shown_cons, shown_chunks]
  rfl

@[simp] theorem shown_sendCommand (cfg : Params) (op : Byte) (data : List Byte) (f : Option CacheWrite) :
    shown (sendCommand cfg op data f) = frameEvents cfg.bufCap op data := by
  simp [sendCommand, frameEvents, Act.shown]

@[simp] theorem shown_memWrite (cfg : Params) (bytes : List Byte) :
    shown (memWriteStream cfg bytes) = memWriteEvents cfg.bufCap bytes := by
  simp [memWriteStream, memWriteEvents, Act.shown]

@[simp] theorem shown_column (s : State) (a b : Half) : shown (columnActs s a b) = columnEvents s a b := by
  unfold columnActs columnEvents
  split <;> simp [Act.shown]

@[simp] theorem shown_row (s : State) (a b : Half) : shown (rowActs s a b) = rowEvents s a b := by
  unfold rowActs rowEvents
  split <;> simp [Act.shown]

@[simp] theorem shown_window (s : State) (x y w h : Int) : shown (windowActs s x y w h) = windowEvents s x y w h := by
  simp [windowActs, windowEvents]

@[simp] theorem shown_paint (s : State) (x y w h : Int) (bytes : List Byte) :
    shown (paintActs s x y w h bytes) = paintEvents s x y w h bytes := by
  simp [paintActs, paintEvents]

/-- The transactions of moves are those of their events. -/
theorem xferCount_shown (acts : List Act) : xferCount (shown acts) = transactions acts := by
  induction acts with
  | nil => rfl
  | cons a acts ih =>
    rw [shown_cons, xferCount_append, ih]
    unfold transactions
    rw [List.countP_cons, Nat.add_comm]
    cases a <;> rfl

/-- A move that makes no transaction leaves the display side but for its event. -/
theorem apply_traceD (a : Act) (s : State) : (a.apply s).traceD = s.traceD ++ a.shown := by
  cases a with
  | drive pin level => cases pin <;> rfl
  | cache c => cases c <;> simp [Act.apply, writeCache, Act.shown]
  | _ => simp [Act.apply, sent, stage, waitOp, pbNewOp, pbWriteOp, pbFillOp, Act.shown]

theorem apply_port (a : Act) (s : State) : (a.apply s).port = s.port := by
  cases a with
  | drive pin level => cases pin <;> rfl
  | cache c => cases c <;> rfl
  | _ => rfl

theorem throughXfer_quiet {evs : List DispEvent} (h : xferCount evs = 0) (more : List DispEvent) (j : Nat) :
    throughXfer (evs ++ more) j = evs ++ throughXfer more j := by
  induction evs with
  | nil => rfl
  | cons e evs ih =>
    cases e with
    | xfer bs => simp [xferCount] at h
    | _ =>
      rw [List.cons_append, List.cons_append, throughXfer, ih (by simpa [xferCount] using h)]
      all_goals simp

/-- A failing transaction changes what a good one changes, draws `SEL` and `DC`, and nothing else but the cache. -/
theorem failed_eq (bs : List Byte) (f : Option CacheWrite) (d : FailDraw) (s : State) :
    failed bs f d s = { sent bs s with
      sel := d.sel, dc := d.dc
      colStart := (failed bs f d s).colStart, colEnd := (failed bs f d s).colEnd
      rowStart := (failed bs f d s).rowStart, rowEnd := (failed bs f d s).rowEnd } := by
  cases hd : d.cacheNew with
  | false => cases f <;> simp [failed, drawAfterFail, hd]
  | true =>
    cases f with
    | none => rfl
    | some c => cases c <;> simp [failed, drawAfterFail, hd, writeCache]

theorem failed_traceD (bs : List Byte) (f : Option CacheWrite) (d : FailDraw) (s : State) :
    (failed bs f d s).traceD = s.traceD ++ [.xfer bs] := by rw [failed_eq]; rfl

theorem failed_rspD (bs : List Byte) (f : Option CacheWrite) (d : FailDraw) (s : State) :
    (failed bs f d s).rspD = s.rspD := by rw [failed_eq]; rfl

theorem failed_draws (bs : List Byte) (f : Option CacheWrite) (d : FailDraw) (s : State) :
    (failed bs f d s).sel = d.sel ∧ (failed bs f d s).dc = d.dc ∧ (failed bs f d s).tbFill = 0 := by
  rw [failed_eq]; exact ⟨rfl, rfl, rfl⟩

/-- The `j`-th transaction is the first to fail: the moves before it are made, it fails, and nothing follows. -/
theorem performAll_fail_at {acts : List Act} {s : State} {j : Nat} {e : BusErr} {d : FailDraw}
    (hj : j < transactions acts) (hok : s.BusOk j) (hf : s.busAt j = .fail e d) :
    ∃ before a after bs, acts = before ++ a :: after ∧ transactions before = j ∧ a.payload = some bs ∧
      performAll acts s = (failed bs a.frame d (a.ready (applyAll before s)), some (Response.busFailed e)) := by
  induction acts generalizing s j with
  | nil => simp [transactions] at hj
  | cons a acts ih =>
    cases hp : a.payload with
    | none =>
      have hq : ∀ i, (a.apply s).busAt i = s.busAt i := fun i => by rw [busAt_apply, hp]; rfl
      have ht : transactions (a :: acts) = transactions acts := by simp [transactions, hp]
      obtain ⟨before, a', after, bs, rfl, hb, hp', hr⟩ :=
        ih (s := a.apply s) (ht ▸ hj) (fun i hi => (hq i).trans (hok i hi)) ((hq j).trans hf)
      refine ⟨a :: before, a', after, bs, rfl, ?_, hp', ?_⟩
      · rw [← hb]; simp [transactions, hp]
      · simp only [performAll, perform_quiet hp, hr, applyAll_cons]
    | some bs =>
      cases j with
      | zero =>
        refine ⟨[], a, acts, bs, rfl, rfl, hp, ?_⟩
        simp only [performAll, perform_fail hp ((busAnswer_eq_busAt s).trans hf), applyAll_nil]
      | succ j =>
        have hq : ∀ i, (a.apply s).busAt i = s.busAt (i + 1) := fun i => by rw [busAt_apply, hp]; rfl
        have ht : transactions (a :: acts) = transactions acts + 1 := by simp [transactions, hp]
        obtain ⟨before, a', after, bs', rfl, hb, hp', hr⟩ :=
          ih (s := a.apply s) (by omega) (fun i hi => (hq i).trans (hok _ (by omega))) ((hq j).trans hf)
        refine ⟨a :: before, a', after, bs', rfl, ?_, hp', ?_⟩
        · rw [← hb]; simp [transactions, hp]
        · have h0 := (busAnswer_eq_busAt s).trans (hok 0 (Nat.succ_pos j))
          simp only [performAll, perform_ok h0, hr, applyAll_cons]

theorem applyAll_traceD (acts : List Act) (s : State) : (applyAll acts s).traceD = s.traceD ++ shown acts := by
  induction acts generalizing s with
  | nil => simp
  | cons a acts ih => rw [applyAll_cons, ih, apply_traceD, shown_cons, List.append_assoc]

theorem throughXfer_shown (before : List Act) (a : Act) (after : List Act) (bs : List Byte) (hp : a.payload = some bs) :
    throughXfer (shown (before ++ a :: after)) (transactions before) = shown before ++ [.xfer bs] := by
  induction before with
  | nil =>
    cases a <;> cases hp <;> rfl
  | cons b before ih =>
    rw [List.cons_append, shown_cons, shown_cons]
    cases hb : b.payload with
    | none =>
      have hx : xferCount b.shown = 0 := by cases b <;> first | rfl | cases hb
      have ht : transactions (b :: before) = transactions before := by simp [transactions, hb]
      rw [throughXfer_quiet hx, ht, ih, List.append_assoc]
    | some cs =>
      have hx : b.shown = [.xfer cs] := by cases b <;> cases hb <;> rfl
      have ht : transactions (b :: before) = transactions before + 1 := by simp [transactions, hb]
      rw [ht, hx, List.singleton_append, throughXfer, ih]
      rfl

/-- A plan whose `j`-th transaction is the first to fail leaves what `FailedAt` says. -/
theorem settleD_failedAt {acts : List Act} {reply : Response} {s : State} {j : Nat} {e : BusErr} {d : FailDraw}
    (hj : j < xferCount (shown acts)) (hok : s.BusOk j) (hf : s.busAt j = .fail e d)
    (hr : ∀ before : List Act, (applyAll before s).rspD = s.rspD) :
    s.FailedAt (settleD ⟨acts, false, reply⟩ s) (shown acts) j e d := by
  obtain ⟨before, a, after, bs, rfl, rfl, hp, hperf⟩ := performAll_fail_at (xferCount_shown acts ▸ hj) hok hf
  have hready : ∀ t : State, (a.ready t).traceD = t.traceD ∧ (a.ready t).rspD = t.rspD := fun t => by
    cases a <;> exact ⟨rfl, rfl⟩
  simp only [settleD, hperf]
  refine ⟨?_, ?_, (failed_draws ..).1, (failed_draws ..).2.1, (failed_draws ..).2.2, rfl⟩
  · rw [respondD_traceD, failed_traceD, (hready _).1, applyAll_traceD, throughXfer_shown _ _ _ _ hp, List.append_assoc]
  · rw [respondD_rspD, failed_rspD, (hready _).2, hr]

theorem applyAll_rspD (acts : List Act) (s : State) : (applyAll acts s).rspD = s.rspD := by
  induction acts generalizing s with
  | nil => rfl
  | cons a acts ih =>
    rw [applyAll_cons, ih]
    cases a with
    | drive pin level => cases pin <;> rfl
    | cache c => cases c <;> rfl
    | _ => rfl

/-- An operation of HOP_D whose plan is these moves, with no results. -/
theorem runs_of_plan {i : Instr} {sel : Byte} {plan : State → Plan} {s : State} {acts : List Act}
    (he : exec i s = hostOp sel onD plan s) (h : s.Ready .hopD) (hp : plan s = Plan.run acts []) :
    s.Runs i (shown acts) (applyAll acts s) := by
  rw [State.Runs, he, hostOp_onD h, hp]
  refine ⟨fun hok => ?_, fun j e d hj hok hf => ⟨_, rfl, settleD_failedAt hj hok hf fun b => applyAll_rspD b s⟩⟩
  rw [settleD_ok (xferCount_shown acts ▸ hok)]
  rfl

/-! ### A display command run alone (log 4) -/

theorem onBench_busAt (s : State) (j : Nat) : s.onBench.busAt j = s.busAt j := rfl

/-- What the bench is left with when these events were shown on it. -/
theorem benchAfter_shows (s : State) (evs : List DispEvent) (staged : List (List Byte)) :
    s.benchAfter ((s.onBench.shows evs staged).filled 0) = s.benchShows evs staged := rfl

/-- A row whose meaning is to make these moves on the bench. -/
theorem benchRuns_of_moves {i : Instr} {acts : List Act} {s : State} {staged : List (List Byte)}
    (he : exec i s = innerD acts s)
    (h : applyAll acts s.onBench = (s.onBench.shows (shown acts) staged).filled 0) :
    s.BenchRuns i (shown acts) staged := by
  rw [State.BenchRuns, he]
  refine ⟨fun hok => ?_, fun j e d hj hok hf => ?_⟩
  · have hok : s.onBench.BusOk (transactions acts) := xferCount_shown acts ▸ hok
    simp only [innerD, runInner, commandRow, performAll_ok hok, h, benchAfter_shows, Option.getD_none]
  · obtain ⟨before, a, after, bs, rfl, rfl, hp, hperf⟩ :=
      performAll_fail_at (s := s.onBench) (xferCount_shown acts ▸ hj) hok hf
    have hready : ∀ t : State, (a.ready t).traceD = t.traceD := fun t => by cases a <;> rfl
    refine ⟨_, by simp only [innerD, runInner, commandRow, hperf]; rfl, ?_, rfl, (failed_draws ..).1, (failed_draws ..).2.1,
      (failed_draws ..).2.2⟩
    simp only [Option.getD_some, innerAnswer_bench, benchAfter_bench]
    rw [failed_traceD, hready, applyAll_traceD, throughXfer_shown _ _ _ _ hp, List.append_assoc]
    rfl

end Sys2Proof.Machine
end

