-- ==== Sys2Proof/Laws/PerInstr.lean ====
section
/-!
SUPPORT. The family `FrameLength`, said per instruction: the frame of a well-formed instruction has the length
30_encoding.md R83, R87, R91 and R92 give it.
-/

namespace Sys2Proof.Laws

/-- The length in bytes of an instruction's frame: fixed by the code, but for the arrays and the pixel stream. -/
def FrameLength.bytes : Instr → Nat
  | .toPacked .. => 5
  | .makePacked .. => 4
  | .writeByte .. => 2
  | .writeBytes bs => 5 + bs.length
  | .writeRep16 .. => 7
  | .writePackedArray cs => 5 + 2 * cs.length
  | .setWindow .. => 9
  | .setPixel .. => 7
  | .drawHLine .. => 9
  | .drawVLine .. => 9
  | .fillRect .. => 11
  | .blit .. => 6
  | .reset => 1
  | .init => 1
  | .size => 1
  | .kbdPoll => 1
  | .kbdLatch => 1
  | .pbCreate .. => 5
  | .pbSet .. => 8
  | .pbFill .. => 4
  | .pbGet .. => 6
  | .pbSize .. => 2
  | .softwareReset => 1
  | .sleepOut => 1
  | .inversionOn => 1
  | .displayOn => 1
  | .columnAddressSet .. => 5
  | .pageAddressSet .. => 5
  | .memoryWrite pixels => 1 + 2 * pixels.length
  | .memoryAccessControl .. => 2
  | .pixelFormat .. => 2
  | .frameRateControl .. => 3
  | .displayFunctionControl .. => 4
  | .powerControl1 .. => 3
  | .powerControl2 .. => 2
  | .vcomControl .. => 5
  | .kbdReq => 1
  | .kbdRspNone .. => 2
  | .kbdRspDown .. => 2
  | .kbdRspHeld .. => 2
  | .kbdRspUp .. => 2
  | .kbdRspInvalid .. => 2

/-- What the family says of one instruction. -/
def FrameLength.Statement (i : Instr) : Prop := i.wf = true → (encode i).length = FrameLength.bytes i

theorem FrameLength.toPacked (r g b a : Byte) : FrameLength.Statement (.toPacked r g b a) := fun _ => rfl

theorem FrameLength.makePacked (r g b : Byte) : FrameLength.Statement (.makePacked r g b) := fun _ => rfl

theorem FrameLength.writeByte (b : Byte) : FrameLength.Statement (.writeByte b) := fun _ => rfl

theorem FrameLength.writeBytes (bs : List Byte) : FrameLength.Statement (.writeBytes bs) := by
  intro _
  simp [encode, Instr.operands, countBytes, FrameLength.bytes]
  omega

theorem FrameLength.writeRep16 (v : Half) (count : Count) : FrameLength.Statement (.writeRep16 v count) := fun _ => rfl

theorem FrameLength.writePackedArray (cs : List Half) : FrameLength.Statement (.writePackedArray cs) := by
  intro _
  show (_ :: (countBytes _ ++ Machine.pairBytes cs)).length = 5 + 2 * cs.length
  simp only [List.length_cons, List.length_append, pairBytes_length, countBytes]
  simp only [List.length_nil]
  omega

theorem FrameLength.setWindow (x y w h : Half) : FrameLength.Statement (.setWindow x y w h) := fun _ => rfl

theorem FrameLength.setPixel (x y c : Half) : FrameLength.Statement (.setPixel x y c) := fun _ => rfl

theorem FrameLength.drawHLine (x0 x1 y c : Half) : FrameLength.Statement (.drawHLine x0 x1 y c) := fun _ => rfl

theorem FrameLength.drawVLine (x y0 y1 c : Half) : FrameLength.Statement (.drawVLine x y0 y1 c) := fun _ => rfl

theorem FrameLength.fillRect (x y w h c : Half) : FrameLength.Statement (.fillRect x y w h c) := fun _ => rfl

theorem FrameLength.blit (x y : Half) (pb : Byte) : FrameLength.Statement (.blit x y pb) := fun _ => rfl

theorem FrameLength.reset : FrameLength.Statement .reset := fun _ => rfl

theorem FrameLength.init : FrameLength.Statement .init := fun _ => rfl

theorem FrameLength.size : FrameLength.Statement .size := fun _ => rfl

theorem FrameLength.kbdPoll : FrameLength.Statement .kbdPoll := fun _ => rfl

theorem FrameLength.kbdLatch : FrameLength.Statement .kbdLatch := fun _ => rfl

theorem FrameLength.pbCreate (w h : Half) : FrameLength.Statement (.pbCreate w h) := fun _ => rfl

theorem FrameLength.pbSet (pb : Byte) (x y c : Half) : FrameLength.Statement (.pbSet pb x y c) := fun _ => rfl

theorem FrameLength.pbFill (pb : Byte) (c : Half) : FrameLength.Statement (.pbFill pb c) := fun _ => rfl

theorem FrameLength.pbGet (pb : Byte) (x y : Half) : FrameLength.Statement (.pbGet pb x y) := fun _ => rfl

theorem FrameLength.pbSize (pb : Byte) : FrameLength.Statement (.pbSize pb) := fun _ => rfl

theorem FrameLength.softwareReset : FrameLength.Statement .softwareReset := fun _ => rfl

theorem FrameLength.sleepOut : FrameLength.Statement .sleepOut := fun _ => rfl

theorem FrameLength.inversionOn : FrameLength.Statement .inversionOn := fun _ => rfl

theorem FrameLength.displayOn : FrameLength.Statement .displayOn := fun _ => rfl

theorem FrameLength.columnAddressSet (first last : Half) : FrameLength.Statement (.columnAddressSet first last) := fun _ => rfl

theorem FrameLength.pageAddressSet (first last : Half) : FrameLength.Statement (.pageAddressSet first last) := fun _ => rfl

theorem FrameLength.memoryWrite (pixels : List Half) : FrameLength.Statement (.memoryWrite pixels) := by
  intro _
  show (_ :: Machine.pairBytes pixels).length = 1 + 2 * pixels.length
  simp only [List.length_cons, pairBytes_length]
  omega

theorem FrameLength.memoryAccessControl (d : Byte) : FrameLength.Statement (.memoryAccessControl d) := fun _ => rfl

theorem FrameLength.pixelFormat (d : Byte) : FrameLength.Statement (.pixelFormat d) := fun _ => rfl

theorem FrameLength.frameRateControl (d0 d1 : Byte) : FrameLength.Statement (.frameRateControl d0 d1) := fun _ => rfl

theorem FrameLength.displayFunctionControl (d0 d1 d2 : Byte) : FrameLength.Statement (.displayFunctionControl d0 d1 d2) := fun _ => rfl

theorem FrameLength.powerControl1 (d0 d1 : Byte) : FrameLength.Statement (.powerControl1 d0 d1) := fun _ => rfl

theorem FrameLength.powerControl2 (d : Byte) : FrameLength.Statement (.powerControl2 d) := fun _ => rfl

theorem FrameLength.vcomControl (d0 d1 d2 d3 : Byte) : FrameLength.Statement (.vcomControl d0 d1 d2 d3) := fun _ => rfl

theorem FrameLength.kbdReq : FrameLength.Statement .kbdReq := fun _ => rfl

theorem FrameLength.kbdRspNone (key : Byte) : FrameLength.Statement (.kbdRspNone key) := fun _ => rfl

theorem FrameLength.kbdRspDown (key : Byte) : FrameLength.Statement (.kbdRspDown key) := fun _ => rfl

theorem FrameLength.kbdRspHeld (key : Byte) : FrameLength.Statement (.kbdRspHeld key) := fun _ => rfl

theorem FrameLength.kbdRspUp (key : Byte) : FrameLength.Statement (.kbdRspUp key) := fun _ => rfl

theorem FrameLength.kbdRspInvalid (tag key : Byte) : FrameLength.Statement (.kbdRspInvalid tag key) := fun _ => rfl

end Sys2Proof.Laws
end

