-- ==== Sys2Proof/Tests/Slice0.lean ====
section
/-!
SUPPORT. Small tests. Expected results come from the tables and examples of spec/, mostly 95_test_vectors.md, or are
counted by hand from its rules; a test says where. The witnesses at the end meet the hypotheses of the statements.
-/

namespace Sys2Proof.Tests

open Sys2Proof.Machine

/-! ### Helpers -/

/-- A small configuration: `KEY_CTRL = 0xA5` as in the vectors of 95_test_vectors.md section 2.6. -/
def values (cap : Nat) (rst incl far : Bool) : ParamValues where
  bufCap := cap
  hasRst := rst
  kbdAddr := 0x1F#8
  keyCtrl := 0xA5#8
  initC0 := [0x10#8, 0x11#8]
  initC1 := [0x12#8]
  initC5 := [0x13#8, 0x14#8, 0x15#8, 0x16#8]
  init3A := [0x17#8]
  initB1 := [0x18#8, 0x19#8]
  initB6 := [0x1A#8, 0x1B#8, 0x1C#8]
  init36 := [0x1D#8]
  lineLenInclusive := incl
  rectClipFar := far
  pbmSlots := 3
  pbmWords := 10
  displayBusKind := .spi

/-- `BUF_CAP = 7`, a reset line, the default clipping. -/
def cfg7 : Params := ⟨values 7 true true true, by decide⟩

/-- `BUF_CAP = 2`, no reset line, the other clipping. -/
def cfg2 : Params := ⟨values 2 false false false, by decide⟩

/-- A machine after reset whose display bus answers well. -/
def base : State := { State.reset with
    cfg := cfg7, busScript := List.replicate 60 .ok, tb := List.replicate 7 0xEE#8
    bench := ⟨true, true, List.replicate 7 0xEE#8, 0, [], false, false, []⟩ }

/-- The same with the other configuration. -/
def bare : State := { State.reset with
    cfg := cfg2, busScript := List.replicate 60 .ok, tb := List.replicate 2 0xEE#8
    bench := ⟨true, true, List.replicate 2 0xEE#8, 0, [], false, false, []⟩ }

/-- The request is on HOP_K; the keyboard answers these two bytes. -/
def keys (tag key : Byte) : State := { base with port := .hopK, kbdScript := [.bytes tag key] }

/-- The same with these latches. -/
def latched (alt ctrl : Bool) (tag key : Byte) : State := { keys tag key with altDown := alt, ctrlDown := ctrl }

/-- A 2-by-2 buffer 0 holding 1, 2, 3, 4. -/
def buffers : State :=
  { base with pbs := [⟨2#16, 2#16, [1#16, 2#16, 3#16, 4#16]⟩], pbmNext := 1, pbmUsed := 4 }

/-- The next state, if there is one. -/
def result (o : Host.Outcome State Fault Refusal) : Option State :=
  match o with
  | .next t => some t
  | _ => none

theorem result_some {o : Host.Outcome State Fault Refusal} (h : (result o).isSome = true) : ∃ t, o = .next t := by
  cases o with
  | next t => exact ⟨t, rfl⟩
  | fault _ => cases h
  | refused _ => cases h

/-- The display-side trace of an instruction. -/
def trace (i : Instr) (s : State) : Option (List DispEvent) := (result (exec i s)).map State.traceD

/-- The trace of an instruction on the bench. -/
def benchTrace (i : Instr) (s : State) : Option (List DispEvent) := (result (exec i s)).map (fun t => t.bench.traceD)

/-- The response frames of an instruction on HOP_D. -/
def frames (i : Instr) (s : State) : Option (List (List Byte)) :=
  (result (exec i s)).map (fun t => t.rspD.map Response.frame)

/-- The response frames on HOP_K, and the latches. -/
def polled (i : Instr) (s : State) : Option (List (List Byte) × Bool × Bool) :=
  (result (exec i s)).map (fun t => (t.rspK.map Response.frame, t.altDown, t.ctrlDown))

/-- The window cache. -/
def window (i : Instr) (s : State) : Option (Half × Half × Half × Half) :=
  (result (exec i s)).map (fun t => (t.colStart, t.colEnd, t.rowStart, t.rowEnd))

/-- `CMD(op; data)` of 42_display_engine.md: the data as one transaction. -/
def cmd (op : Byte) (data : List Byte) : List DispEvent :=
  [.drive .sel false, .drive .dc false, .xfer [op], .drive .dc true] ++
    (if data.isEmpty then [] else [.xfer data]) ++ [.drive .sel true]

/-- `CMD(2C;) S0 X[..] S1`. -/
def paint (chunks : List (List Byte)) : List DispEvent :=
  cmd 0x2C#8 [] ++ [.drive .sel false] ++ chunks.map .xfer ++ [.drive .sel true]

/-! ### WellFormed and the checks of R12: an ill-formed term for each -/

theorem test_wf_writeBytes : (Instr.writeBytes []).wf = true ∧ (Instr.writeBytes [1#8]).wf = true := by decide

/-- A count that 32 bits cannot hold is refused (R83). -/
theorem test_wf_writeBytes_long : (Instr.writeBytes (List.replicate (2 ^ 32) 0#8)).wf = false := by
  simp only [Instr.wf, List.length_replicate, decide_eq_false_iff_not]
  omega

theorem test_wf_writePackedArray_long : (Instr.writePackedArray (List.replicate (2 ^ 32) 0#16)).wf = false := by
  simp only [Instr.wf, List.length_replicate, decide_eq_false_iff_not]
  omega

/-- `MemWriteStream` is non-empty (R152). -/
theorem test_wf_memoryWrite : (Instr.memoryWrite []).wf = false ∧ (Instr.memoryWrite [0#16]).wf = true := by decide

/-- Tags 0 to 3 are no invalid response (R92). -/
theorem test_wf_kbdRspInvalid :
    (Instr.kbdRspInvalid 3#8 0#8).wf = false ∧ (Instr.kbdRspInvalid 4#8 0#8).wf = true := by decide

/-- Each constraint of R12, broken. -/
theorem test_params :
    (values 2 true true true).ok = true ∧ (values 1 true true true).ok = false ∧
      ({ values 7 true true true with keyCtrl := 0xA1#8 } : ParamValues).ok = false ∧
      ({ values 7 true true true with keyCtrl := 0#8 } : ParamValues).ok = false ∧
      ({ values 7 true true true with initC0 := [] } : ParamValues).ok = false ∧
      ({ values 7 true true true with initC1 := [] } : ParamValues).ok = false ∧
      ({ values 7 true true true with initC5 := [] } : ParamValues).ok = false ∧
      ({ values 7 true true true with init3A := [] } : ParamValues).ok = false ∧
      ({ values 7 true true true with initB1 := [] } : ParamValues).ok = false ∧
      ({ values 7 true true true with initB6 := [] } : ParamValues).ok = false ∧
      ({ values 7 true true true with init36 := [] } : ParamValues).ok = false ∧
      ({ values 7 true true true with kbdAddr := 0x80#8 } : ParamValues).ok = false ∧
      ({ values 7 true true true with pbmSlots := 0 } : ParamValues).ok = false ∧
      ({ values 7 true true true with pbmSlots := 257 } : ParamValues).ok = false := by decide

/-! ### Decoding: frames written out from R82, R83, R87, R91, R92 -/

theorem test_decode_toPacked :
    decode .hostReq [0x01#8, 0x12#8, 0x34#8, 0x56#8, 0x78#8] =
      .ok (.toPacked 0x12#8 0x34#8 0x56#8 0x78#8) := by decide

theorem test_decode_makePacked :
    decode .hostReq [0x02#8, 0x21#8, 0x41#8, 0x21#8] = .ok (.makePacked 0x21#8 0x41#8 0x21#8) := by decide

theorem test_decode_writeByte :
    decode .hostReq [0x10#8, 0x2C#8] = .ok (.writeByte 0x2C#8) := by decide

theorem test_decode_writeBytes :
    decode .hostReq [0x11#8, 0x00#8, 0x00#8, 0x00#8, 0x03#8, 0x01#8, 0x02#8, 0x03#8] =
      .ok (.writeBytes [1#8, 2#8, 3#8]) := by decide

theorem test_decode_writeRep16 :
    decode .hostReq [0x12#8, 0xFF#8, 0xFF#8, 0x00#8, 0x00#8, 0x02#8, 0x58#8] =
      .ok (.writeRep16 0xFFFF#16 600#32) := by decide

theorem test_decode_writePackedArray :
    decode .hostReq [0x13#8, 0x00#8, 0x00#8, 0x00#8, 0x02#8, 0xF8#8, 0x00#8, 0x00#8, 0x1F#8] =
      .ok (.writePackedArray [0xF800#16, 0x001F#16]) := by decide

theorem test_decode_setWindow :
    decode .hostReq [0x20#8, 0x00#8, 0x00#8, 0x00#8, 0x0A#8, 0x00#8, 0x0F#8, 0x00#8, 0x14#8] =
      .ok (.setWindow 0#16 10#16 15#16 20#16) := by decide

theorem test_decode_setPixel :
    decode .hostReq [0x21#8, 0x00#8, 0x05#8, 0x00#8, 0x07#8, 0xF8#8, 0x00#8] =
      .ok (.setPixel 5#16 7#16 0xF800#16) := by decide

theorem test_decode_drawHLine :
    decode .hostReq [0x22#8, 0x00#8, 0x06#8, 0x00#8, 0x07#8, 0x00#8, 0x08#8, 0x12#8, 0x34#8] =
      .ok (.drawHLine 6#16 7#16 8#16 0x1234#16) := by decide

theorem test_decode_drawVLine :
    decode .hostReq [0x23#8, 0x00#8, 0x06#8, 0x00#8, 0x08#8, 0x00#8, 0x09#8, 0xAB#8, 0xCD#8] =
      .ok (.drawVLine 6#16 8#16 9#16 0xABCD#16) := by decide

theorem test_decode_fillRect :
    decode .hostReq [0x24#8, 0xFF#8, 0xFB#8, 0x00#8, 0x0A#8, 0x00#8, 0x14#8, 0x00#8, 0x15#8, 0xFF#8, 0xFE#8] =
      .ok (.fillRect (BitVec.ofInt 16 (-5)) 10#16 20#16 21#16 0xFFFE#16) := by decide

theorem test_decode_blit :
    decode .hostReq [0x25#8, 0x01#8, 0x3E#8, 0x00#8, 0x0A#8, 0x02#8] = .ok (.blit 318#16 10#16 2#8) := by decide

theorem test_decode_reset :
    decode .hostReq [0x26#8] = .ok .reset := by decide

theorem test_decode_init :
    decode .hostReq [0x27#8] = .ok .init := by decide

theorem test_decode_size :
    decode .hostReq [0x28#8] = .ok .size := by decide

theorem test_decode_kbdPoll :
    decode .hostReq [0x30#8] = .ok .kbdPoll := by decide

theorem test_decode_kbdLatch :
    decode .hostReq [0x31#8] = .ok .kbdLatch := by decide

theorem test_decode_pbCreate :
    decode .hostReq [0x40#8, 0x00#8, 0x02#8, 0x01#8, 0x03#8] = .ok (.pbCreate 2#16 259#16) := by decide

theorem test_decode_pbSet :
    decode .hostReq [0x41#8, 0x01#8, 0x00#8, 0x02#8, 0x00#8, 0x03#8, 0xF8#8, 0x00#8] =
      .ok (.pbSet 1#8 2#16 3#16 0xF800#16) := by decide

theorem test_decode_pbFill :
    decode .hostReq [0x42#8, 0x01#8, 0x07#8, 0xE0#8] = .ok (.pbFill 1#8 0x07E0#16) := by decide

theorem test_decode_pbGet :
    decode .hostReq [0x43#8, 0x01#8, 0x00#8, 0x02#8, 0x00#8, 0x03#8] = .ok (.pbGet 1#8 2#16 3#16) := by decide

theorem test_decode_pbSize :
    decode .hostReq [0x44#8, 0x01#8] = .ok (.pbSize 1#8) := by decide

theorem test_decode_softwareReset :
    decode .dispCmd [0x01#8] = .ok .softwareReset := by decide

theorem test_decode_sleepOut :
    decode .dispCmd [0x11#8] = .ok .sleepOut := by decide

theorem test_decode_inversionOn :
    decode .dispCmd [0x21#8] = .ok .inversionOn := by decide

theorem test_decode_displayOn :
    decode .dispCmd [0x29#8] = .ok .displayOn := by decide

theorem test_decode_columnAddressSet :
    decode .dispCmd [0x2A#8, 0x00#8, 0x02#8, 0x01#8, 0x3F#8] = .ok (.columnAddressSet 2#16 319#16) := by decide

theorem test_decode_pageAddressSet :
    decode .dispCmd [0x2B#8, 0x00#8, 0x0A#8, 0x00#8, 0x1D#8] = .ok (.pageAddressSet 10#16 29#16) := by decide

theorem test_decode_memoryWrite :
    decode .dispCmd [0x2C#8, 0xF8#8, 0x00#8, 0x00#8, 0x1F#8] = .ok (.memoryWrite [0xF800#16, 0x001F#16]) := by decide

theorem test_decode_memoryAccessControl :
    decode .dispCmd [0x36#8, 0x48#8] = .ok (.memoryAccessControl 0x48#8) := by decide

theorem test_decode_pixelFormat :
    decode .dispCmd [0x3A#8, 0x55#8] = .ok (.pixelFormat 0x55#8) := by decide

theorem test_decode_frameRateControl :
    decode .dispCmd [0xB1#8, 0x01#8, 0x02#8] = .ok (.frameRateControl 1#8 2#8) := by decide

theorem test_decode_displayFunctionControl :
    decode .dispCmd [0xB6#8, 0x01#8, 0x02#8, 0x03#8] = .ok (.displayFunctionControl 1#8 2#8 3#8) := by decide

theorem test_decode_powerControl1 :
    decode .dispCmd [0xC0#8, 0x01#8, 0x02#8] = .ok (.powerControl1 1#8 2#8) := by decide

theorem test_decode_powerControl2 :
    decode .dispCmd [0xC1#8, 0x01#8] = .ok (.powerControl2 1#8) := by decide

theorem test_decode_vcomControl :
    decode .dispCmd [0xC5#8, 0x01#8, 0x02#8, 0x03#8, 0x04#8] = .ok (.vcomControl 1#8 2#8 3#8 4#8) := by decide

theorem test_decode_kbdReq :
    decode .kbdReq [0x09#8] = .ok .kbdReq := by decide

theorem test_decode_kbdRspNone :
    decode .kbdRsp [0x00#8, 0x41#8] = .ok (.kbdRspNone 0x41#8) := by decide

theorem test_decode_kbdRspDown :
    decode .kbdRsp [0x01#8, 0xA1#8] = .ok (.kbdRspDown 0xA1#8) := by decide

theorem test_decode_kbdRspHeld :
    decode .kbdRsp [0x02#8, 0xA1#8] = .ok (.kbdRspHeld 0xA1#8) := by decide

theorem test_decode_kbdRspUp :
    decode .kbdRsp [0x03#8, 0x41#8] = .ok (.kbdRspUp 0x41#8) := by decide

theorem test_decode_kbdRspInvalid :
    decode .kbdRsp [0x07#8, 0x00#8] = .ok (.kbdRspInvalid 7#8 0#8) := by decide

/-- R83, R93, R96, R87, R91, R92: what each decoder rejects, and why. -/
theorem test_decode_rejects :
    decode .hostReq [] = .error .empty ∧ decode .hostReq [0x00#8] = .error (.unassigned 0x00#8) ∧
      decode .hostReq [0x14#8, 0#8] = .error (.unassigned 0x14#8) ∧
      decode .hostReq [0x10#8] = .error (.short 0x10#8) ∧ decode .hostReq [0x10#8, 1#8, 2#8] = .error (.long 0x10#8) ∧
      decode .hostReq [0x11#8, 0#8, 0#8, 0#8, 2#8, 1#8] = .error (.short 0x11#8) ∧
      decode .hostReq [0x13#8, 0#8, 0#8, 0#8, 1#8, 1#8] = .error (.short 0x13#8) ∧
      decode .dispCmd [0x02#8] = .error (.unknownOpcode 0x02#8) ∧ decode .dispCmd [0x36#8] = .error (.badData 0x36#8) ∧
      decode .dispCmd [0x2C#8] = .error (.badData 0x2C#8) ∧ decode .dispCmd [0x2C#8, 1#8] = .error (.badData 0x2C#8) ∧
      decode .kbdReq [0x08#8] = .error .badRequest ∧ decode .kbdRsp [0x01#8] = .error .badResponse ∧
      decode .kbdRsp [1#8, 2#8, 3#8] = .error .badResponse := by decide

/-- The table's numbering: bit 0 is the least significant bit of byte 0; codes shared by two formats are read as host
requests (log 5). -/
theorem test_decodeTableWord :
    decodeTableWord 16 0x2C10 = some (.writeByte 0x2C#8) ∧ decodeTableWord 8 0x29 = some .displayOn ∧
      decodeTableWord 8 0x09 = some .kbdReq ∧ decodeTableWord 16 0xA103 = some (.kbdRspUp 0xA1#8) ∧
      decodeTableWord 8 0x21 = some (.setPixel 0#16 0#16 0#16) := by decide

/-! ### PFC (section 2.1 of 95_test_vectors.md, L1.1, L1.3) -/

theorem test_toPacked :
    frames (.toPacked 0x12#8 0x34#8 0x56#8 0x78#8) base = some [[0x00#8, 0x51#8, 0xA2#8]] ∧
      frames (.toPacked 255#8 0#8 0#8 255#8) base = some [[0x00#8, 0x00#8, 0x1F#8]] ∧
      frames (.toPacked 7#8 3#8 7#8 0#8) base = some [[0x00#8, 0x00#8, 0x00#8]] ∧
      frames (.toPacked 8#8 4#8 8#8 0#8) base = some [[0x00#8, 0x08#8, 0x21#8]] := by decide

theorem test_toPacked_onHopK :
    polled (.toPacked 255#8 0#8 0#8 0#8) (keys 0#8 0#8) = some ([[0x00#8, 0x00#8, 0x1F#8]], false, false) := by decide

theorem test_makePacked :
    frames (.makePacked 33#8 65#8 33#8) base = some [[0x00#8, 0x08#8, 0x21#8]] ∧
      frames (.makePacked 32#8 64#8 32#8) base = some [[0x00#8, 0x00#8, 0x00#8]] ∧
      frames (.makePacked 255#8 255#8 255#8) base = some [[0x00#8, 0xFF#8, 0xFF#8]] := by decide

/-- R122 gives `3 << 11 | 2 << 5 | 1 = 0x1841`; the vector of section 2.8 differs (log 17). -/
theorem test_makePacked_onHopK :
    polled (.makePacked 1#8 2#8 3#8) (keys 0#8 0#8) = some ([[0x00#8, 0x18#8, 0x41#8]], false, false) := by decide

/-- The key codes `KEY_CTRL` may be: not 0, not `KEY_ALT`, every other (R12). -/
theorem test_ctrlCode :
    Config.ctrlCode 0 = 0x01#8 ∧ Config.ctrlCode 159 = 0xA0#8 ∧ Config.ctrlCode 160 = 0xA2#8 ∧
      Config.ctrlCode 253 = 0xFF#8 := by decide

/-! ### BTB (section 2.2) -/

theorem test_writeByte : trace (.writeByte 0x2C#8) base = some [.xfer [0x2C#8]] := by decide

/-- `BUF_CAP = 7`: 7 bytes are one transaction, 8 are two, none are none. -/
theorem test_writeBytes :
    trace (.writeBytes []) base = some [] ∧
      trace (.writeBytes [1#8, 2#8, 3#8, 4#8, 5#8, 6#8, 7#8]) base =
        some [.xfer [1#8, 2#8, 3#8, 4#8, 5#8, 6#8, 7#8]] ∧
      trace (.writeBytes [1#8, 2#8, 3#8, 4#8, 5#8, 6#8, 7#8, 8#8]) base =
        some [.xfer [1#8, 2#8, 3#8, 4#8, 5#8, 6#8, 7#8], .xfer [8#8]] := by decide

/-- The second transaction fails: no third one, `BUS_FAIL` with the value, TB empty (section 2.2). -/
theorem test_writeBytes_fails :
    (result (exec (.writeBytes [1#8, 2#8, 3#8, 4#8, 5#8]) { bare with
      busScript := [.ok, .fail ⟨9⟩ ⟨false, true, true⟩, .ok] })).map
        (fun t => (t.traceD, t.rspD, t.tbFill, t.sel, t.dc)) =
      some ([.xfer [1#8, 2#8], .xfer [3#8, 4#8]], [⟨.busFail, [], some ⟨9⟩⟩], 0, false, true) := by decide

/-- The chunk capacity is 6 where `BUF_CAP = 7`. -/
theorem test_writeRep16 :
    trace (.writeRep16 0x1234#16 0#32) base = some [] ∧
      trace (.writeRep16 0x1234#16 4#32) base =
        some [.xfer [0x12#8, 0x34#8, 0x12#8, 0x34#8, 0x12#8, 0x34#8], .xfer [0x12#8, 0x34#8]] := by decide

theorem test_writePackedArray :
    trace (.writePackedArray [0xF800#16, 0x001F#16]) base = some [.xfer [0xF8#8, 0x00#8, 0x00#8, 0x1F#8]] ∧
      trace (.writePackedArray [0xF800#16, 0x001F#16]) bare =
        some [.xfer [0xF8#8, 0x00#8], .xfer [0x00#8, 0x1F#8]] := by decide

/-! ### DPE: the window cache (section 2.3) -/

theorem test_setWindow :
    trace (.setWindow 0#16 10#16 15#16 20#16) base =
        some (cmd 0x2A#8 [0x00#8, 0x00#8, 0x00#8, 0x0E#8] ++ cmd 0x2B#8 [0x00#8, 0x0A#8, 0x00#8, 0x1D#8]) ∧
      window (.setWindow 0#16 10#16 15#16 20#16) base = some (0#16, 14#16, 10#16, 29#16) ∧
      trace (.setWindow 0#16 0#16 1#16 1#16) base = some [] ∧
      trace (.setWindow 10#16 0#16 0#16 1#16) base = some (cmd 0x2A#8 [0x00#8, 0x0A#8, 0x00#8, 0x09#8]) ∧
      trace (.setWindow 32767#16 0#16 32767#16 1#16) base =
        some (cmd 0x2A#8 [0x7F#8, 0xFF#8, 0xFF#8, 0xFD#8]) := by decide

/-- The row-set opcode fails: the column pair is written, the row pair is the draw (R239 (a), (b)). -/
theorem test_setWindow_fails :
    window (.setWindow 0#16 0#16 10#16 10#16)
        { base with busScript := [.ok, .ok, .fail ⟨1⟩ ⟨true, true, true⟩] } = some (0#16, 9#16, 0#16, 9#16) ∧
      window (.setWindow 0#16 0#16 10#16 10#16)
        { base with busScript := [.ok, .ok, .fail ⟨1⟩ ⟨true, true, false⟩] } = some (0#16, 9#16, 0#16, 0#16) ∧
      trace (.setWindow 0#16 0#16 10#16 10#16)
        { base with busScript := [.ok, .ok, .fail ⟨1⟩ ⟨true, true, false⟩] } =
        some (cmd 0x2A#8 [0#8, 0#8, 0#8, 9#8] ++ [.drive .sel false, .drive .dc false, .xfer [0x2B#8]]) := by decide

/-! ### DPE: drawing (section 2.4) -/

theorem test_setPixel :
    trace (.setPixel 319#16 319#16 0x1234#16) base =
        some (cmd 0x2A#8 [0x01#8, 0x3F#8, 0x01#8, 0x3F#8] ++ cmd 0x2B#8 [0x01#8, 0x3F#8, 0x01#8, 0x3F#8]
          ++ paint [[0x12#8, 0x34#8]]) ∧
      trace (.setPixel 0#16 0#16 0xF800#16) base = some (paint [[0xF8#8, 0x00#8]]) := by decide

theorem test_setPixel_dropped :
    trace (.setPixel 320#16 0#16 1#16) base = some [] ∧ trace (.setPixel 0#16 320#16 1#16) base = some [] ∧
      trace (.setPixel (-1#16) 0#16 1#16) base = some [] ∧ trace (.setPixel 0#16 (-1#16) 1#16) base = some [] := by decide

/-- Reversed; clamped to the last column; clamped to the first; off the rows. -/
theorem test_drawHLine :
    trace (.drawHLine 10#16 7#16 3#16 0x07E0#16) base =
        some (cmd 0x2A#8 [0x00#8, 0x07#8, 0x00#8, 0x0A#8] ++ cmd 0x2B#8 [0x00#8, 0x03#8, 0x00#8, 0x03#8]
          ++ paint [[0x07#8, 0xE0#8, 0x07#8, 0xE0#8, 0x07#8, 0xE0#8], [0x07#8, 0xE0#8]]) ∧
      window (.drawHLine 318#16 400#16 5#16 1#16) base = some (318#16, 319#16, 5#16, 5#16) ∧
      trace (.drawHLine (-10#16) (-5#16) 3#16 0x07E0#16) base =
        some (cmd 0x2B#8 [0x00#8, 0x03#8, 0x00#8, 0x03#8] ++ paint [[0x07#8, 0xE0#8]]) ∧
      trace (.drawHLine 5#16 5#16 320#16 1#16) base = some [] := by decide

/-- `LINE_LEN_INCLUSIVE` false: the last pixel is lost, a single pixel is none. -/
theorem test_drawHLine_exclusive :
    window (.drawHLine 10#16 7#16 3#16 1#16) bare = some (7#16, 9#16, 3#16, 3#16) ∧
      trace (.drawHLine 7#16 7#16 7#16 1#16) bare = some [] := by decide

theorem test_drawVLine :
    trace (.drawVLine 3#16 4#16 2#16 0x001F#16) base =
        some (cmd 0x2A#8 [0x00#8, 0x03#8, 0x00#8, 0x03#8] ++ cmd 0x2B#8 [0x00#8, 0x02#8, 0x00#8, 0x04#8]
          ++ paint [[0x00#8, 0x1F#8, 0x00#8, 0x1F#8, 0x00#8, 0x1F#8]]) ∧
      window (.drawVLine 3#16 319#16 500#16 1#16) base = some (3#16, 3#16, 319#16, 319#16) ∧
      trace (.drawVLine 320#16 0#16 5#16 1#16) base = some [] := by decide

theorem test_drawVLine_exclusive : trace (.drawVLine 3#16 319#16 500#16 1#16) bare = some [] := by decide

/-- The origin clamp, the far clip, exact arithmetic without a wrap, and the no-ops. -/
theorem test_fillRect :
    trace (.fillRect (-5#16) (-5#16) 7#16 7#16 0xFFFF#16) base =
        some (cmd 0x2A#8 [0#8, 0#8, 0#8, 1#8] ++ cmd 0x2B#8 [0#8, 0#8, 0#8, 1#8]
          ++ paint [List.replicate 6 0xFF#8, List.replicate 2 0xFF#8]) ∧
      trace (.fillRect 319#16 319#16 32767#16 32767#16 0xFFFF#16) base =
        some (cmd 0x2A#8 [0x01#8, 0x3F#8, 0x01#8, 0x3F#8] ++ cmd 0x2B#8 [0x01#8, 0x3F#8, 0x01#8, 0x3F#8]
          ++ paint [[0xFF#8, 0xFF#8]]) ∧
      trace (.fillRect 320#16 0#16 5#16 5#16 1#16) base = some [] ∧
      trace (.fillRect (-30#16) 0#16 20#16 5#16 1#16) base = some [] ∧
      trace (.fillRect (-32768#16) 0#16 32767#16 5#16 1#16) base = some [] := by decide

/-- `RECT_CLIP_FAR` false: the far edge goes out unclipped. -/
theorem test_fillRect_unclipped :
    window (.fillRect 319#16 318#16 2#16 3#16 0xFFFF#16) bare = some (319#16, 320#16, 318#16, 320#16) := by decide

/-- Row-major, the far boundary exclusive, an unknown handle. -/
theorem test_blit :
    trace (.blit 317#16 0#16 0#8) buffers =
        some (cmd 0x2A#8 [0x01#8, 0x3D#8, 0x01#8, 0x3E#8] ++ cmd 0x2B#8 [0x00#8, 0x00#8, 0x00#8, 0x01#8]
          ++ paint [[0#8, 1#8, 0#8, 2#8, 0#8, 3#8], [0#8, 4#8]]) ∧
      trace (.blit 318#16 0#16 0#8) buffers = some [] ∧ trace (.blit (-1#16) 0#16 0#8) buffers = some [] ∧
      frames (.blit 0#16 0#16 1#8) buffers = some [[0x03#8, 0x25#8]] := by decide

theorem test_blit_empty :
    trace (.blit 0#16 0#16 0#8) { buffers with pbs := [⟨0#16, 5#16, []⟩] } = some [] := by decide

/-! ### DPE: reset, init, size (section 2.5) -/

theorem test_reset :
    trace .reset base = some [.drive .rst false, .wait 64, .drive .rst true, .wait 140] ∧
      trace .reset bare = some (cmd 0x01#8 [] ++ [.wait 140]) := by decide

/-- The software-reset opcode fails: no `WAIT`. -/
theorem test_reset_fails :
    trace .reset { bare with busScript := [.fail ⟨1⟩ ⟨true, true, true⟩] } =
      some [.drive .sel false, .drive .dc false, .xfer [0x01#8]] := by decide

theorem test_init :
    trace .init base =
      some (cmd 0xC0#8 [0x10#8, 0x11#8] ++ cmd 0xC1#8 [0x12#8] ++ cmd 0xC5#8 [0x13#8, 0x14#8, 0x15#8, 0x16#8]
        ++ cmd 0x3A#8 [0x17#8] ++ cmd 0xB1#8 [0x18#8, 0x19#8] ++ cmd 0xB6#8 [0x1A#8, 0x1B#8, 0x1C#8]
        ++ cmd 0x21#8 [] ++ cmd 0x36#8 [0x1D#8] ++ cmd 0x11#8 [] ++ [.wait 120] ++ cmd 0x29#8 []) := by decide

theorem test_size : frames .size base = some [[0x00#8, 0x01#8, 0x40#8, 0x01#8, 0x40#8]] := by decide

/-! ### KED (section 2.6) -/

/-- K3, K5, K8, K10, K13. -/
theorem test_kbdPoll :
    polled .kbdPoll (keys 0x01#8 0xA1#8) = some ([[0#8, 0#8]], true, false) ∧
      polled .kbdPoll (keys 0x02#8 0xA1#8) = some ([[0#8, 0#8]], true, false) ∧
      polled .kbdPoll (keys 0x01#8 0xA5#8) = some ([[0#8, 0#8]], false, true) ∧
      polled .kbdPoll (latched false true 0x01#8 0x58#8) = some ([[0#8, 0x58#8]], false, true) ∧
      polled .kbdPoll (keys 0x01#8 0x00#8) = some ([[0#8, 0#8]], false, false) := by decide

/-- K2, K6, K11, and the errors K14, K15, K16. -/
theorem test_kbdPoll_others :
    (polled .kbdPoll (keys 0x00#8 0x41#8) = some ([[0#8, 0#8]], false, false) ∧
      polled .kbdPoll (latched true false 0x03#8 0xA1#8) = some ([[0#8, 0#8]], false, false) ∧
      polled .kbdPoll (keys 0x02#8 0x58#8) = some ([[0#8, 0#8]], false, false)) ∧
    polled .kbdPoll (latched true true 0x04#8 0xA1#8) = some ([[2#8, 0x04#8, 0xA1#8]], true, true) ∧
      polled .kbdPoll (keys 0xFF#8 0x00#8) = some ([[2#8, 0xFF#8, 0x00#8]], false, false) ∧
      polled .kbdPoll { latched true false 0#8 0#8 with kbdScript := [.fail ⟨3⟩] } = some ([[1#8]], true, false) :=
  ⟨by decide, by decide⟩

theorem test_kbdLatch :
    polled .kbdLatch (keys 0#8 0#8) = some ([[0#8, 0#8]], false, false) ∧
      polled .kbdLatch (latched true false 0#8 0#8) = some ([[0#8, 1#8]], true, false) ∧
      polled .kbdLatch (latched false true 0#8 0#8) = some ([[0#8, 2#8]], false, true) := by decide

/-! ### PBM (section 2.7; the capacities here are 3 slots and 10 words) -/

theorem test_pbCreate :
    (result (exec (.pbCreate 2#16 2#16) base)).map (fun t => (t.rspD.map Response.frame, t.pbs, t.pbmNext, t.pbmUsed)) =
      some ([[0#8, 0#8]], [⟨2#16, 2#16, [0#16, 0#16, 0#16, 0#16]⟩], 1, 4) := by decide

/-- 4 + 6 words fit, 4 + 7 do not; a fourth handle does not. -/
theorem test_pbCreate_full :
    frames (.pbCreate 2#16 3#16) buffers = some [[0#8, 1#8]] ∧ frames (.pbCreate 7#16 1#16) buffers = some [[4#8]] ∧
      frames (.pbCreate 0#16 0#16) { buffers with pbmNext := 3 } = some [[4#8]] := by decide

theorem test_pbSet :
    (result (exec (.pbSet 0#8 1#16 0#16 0xF800#16) buffers)).map State.pbs =
        some [⟨2#16, 2#16, [1#16, 0xF800#16, 3#16, 4#16]⟩] ∧
      (result (exec (.pbSet 0#8 (-1#16) 0#16 0xFFFF#16) buffers)).map State.pbs = some buffers.pbs ∧
      frames (.pbSet 1#8 0#16 0#16 0#16) buffers = some [[0x03#8, 0x41#8]] := by decide

theorem test_pbFill :
    (result (exec (.pbFill 0#8 0x07E0#16) buffers)).map State.pbs =
        some [⟨2#16, 2#16, [0x07E0#16, 0x07E0#16, 0x07E0#16, 0x07E0#16]⟩] ∧
      frames (.pbFill 1#8 0#16) buffers = some [[0x03#8, 0x42#8]] := by decide

theorem test_pbGet :
    frames (.pbGet 0#8 0#16 1#16) buffers = some [[0#8, 0#8, 3#8]] ∧
      frames (.pbGet 0#8 2#16 0#16) buffers = some [[0x03#8, 0x43#8]] ∧
      frames (.pbGet 1#8 0#16 0#16) buffers = some [[0x03#8, 0x43#8]] := by decide

theorem test_pbSize :
    frames (.pbSize 0#8) buffers = some [[0#8, 0#8, 2#8, 0#8, 2#8]] ∧
      frames (.pbSize 1#8) buffers = some [[0x03#8, 0x44#8]] := by decide

/-! ### Inner rows run alone (R87, R91, R92) -/

theorem test_commands :
    benchTrace .softwareReset base = some (cmd 0x01#8 []) ∧ benchTrace .sleepOut base = some (cmd 0x11#8 []) ∧
      benchTrace .inversionOn base = some (cmd 0x21#8 []) ∧ benchTrace .displayOn base = some (cmd 0x29#8 []) ∧
      benchTrace (.columnAddressSet 0#16 319#16) base = some (cmd 0x2A#8 [0#8, 0#8, 0x01#8, 0x3F#8]) ∧
      benchTrace (.pageAddressSet 1#16 319#16) base = some (cmd 0x2B#8 [0#8, 1#8, 0x01#8, 0x3F#8]) ∧
      benchTrace (.memoryWrite [0xF800#16]) base = some (paint [[0xF8#8, 0x00#8]]) := by decide

theorem test_commands_data :
    benchTrace (.memoryAccessControl 0x48#8) base = some (cmd 0x36#8 [0x48#8]) ∧
      benchTrace (.pixelFormat 0x55#8) base = some (cmd 0x3A#8 [0x55#8]) ∧
      benchTrace (.frameRateControl 1#8 2#8) base = some (cmd 0xB1#8 [1#8, 2#8]) ∧
      benchTrace (.displayFunctionControl 1#8 2#8 3#8) base = some (cmd 0xB6#8 [1#8, 2#8, 3#8]) ∧
      benchTrace (.powerControl1 1#8 2#8) base = some (cmd 0xC0#8 [1#8, 2#8]) ∧
      benchTrace (.powerControl2 1#8) base = some (cmd 0xC1#8 [1#8]) ∧
      benchTrace (.vcomControl 1#8 2#8 3#8 4#8) base = some (cmd 0xC5#8 [1#8, 2#8, 3#8, 4#8]) := by decide

/-- R94: the block itself shows nothing; a failure at the first data byte ends the frame there (R237). -/
theorem test_commands_bench :
    trace (.vcomControl 1#8 2#8 3#8 4#8) base = some [] ∧
      (result (exec (.pixelFormat 0x55#8) { base with busScript := [.ok, .fail ⟨4⟩ ⟨false, true, true⟩] })).map
        (fun t => (t.bench.traceD, t.bench.sel, t.sel, t.innerOut)) =
      some ([.drive .sel false, .drive .dc false, .xfer [0x3A#8], .drive .dc true, .xfer [0x55#8]], false, true,
        [⟨.busFail, [], some ⟨4⟩⟩]) := by decide

theorem test_kbdReq :
    (result (exec .kbdReq (keys 1#8 0xA1#8))).map (fun t => (t.bench.traceK, t.traceK, t.pending, t.innerOut)) =
      some ([.i2c 0x1F#8 [0x09#8] 2], [], [⟨.kbdRsp, [1#8, 0xA1#8]⟩], [⟨.ok, [], none⟩]) := by decide

theorem test_kbdRsp :
    (result (exec (.kbdRspNone 0x41#8) base)).map State.innerOut = some [⟨.ok, [0#8], none⟩] ∧
      (result (exec (.kbdRspDown 0x41#8) base)).map State.innerOut = some [⟨.ok, [0x41#8], none⟩] ∧
      (result (exec (.kbdRspHeld 0xA5#8) base)).map (fun t => (t.bench.ctrlDown, t.ctrlDown)) = some (true, false) ∧
      (result (exec (.kbdRspUp 0xA1#8) { base with
        altDown := true, bench := { base.bench with altDown := true } })).map
        (fun t => (t.bench.altDown, t.altDown)) = some (false, true) ∧
      (result (exec (.kbdRspInvalid 7#8 0#8) base)).map State.innerOut = some [⟨.decodeFail, [7#8, 0#8], none⟩] := by
  decide

/-! ### Steps (section 2.8, R93, R250) -/

/-- A step with one request on a port. -/
def submitted (c : Channel) (bytes : List Byte) : Host.Outcome State Fault Refusal :=
  step { base with pending := [⟨c, bytes⟩] }

theorem test_step_errors :
    (result (submitted .hopD [0x00#8])).map (fun t => t.rspD.map Response.frame) = some [[0x03#8, 0x00#8]] ∧
      (result (submitted .hopD [0x30#8])).map (fun t => t.rspD.map Response.frame) = some [[0x03#8, 0x30#8]] ∧
      (result (submitted .hopK [0x24#8, 0#8, 0#8, 0#8, 0#8, 0#8, 1#8, 0#8, 1#8, 0#8, 0#8])).map
        (fun t => t.rspK.map Response.frame) = some [[0x03#8, 0x24#8]] := by decide

theorem test_step_frames :
    submitted .hopD [0x10#8] = .fault .shortFrame ∧ submitted .hopD [0x28#8, 0#8] = .fault .overlongFrame ∧
      submitted .hopD [0x30#8, 0#8] = .fault .overlongFrame ∧
      submitted .dispCmd [0x02#8] = .refused .badInnerFrame := ⟨rfl, rfl, rfl, rfl⟩

/-- The operation placed runs in the very next step, and moves of both ports interleave (R64, logs 1, 2, 3). -/
theorem test_step_places :
    (result (step (base.withFetchWord 16 0x2C10))).map State.traceD = some [.xfer [0x2C#8]] ∧
      (result (step { base with
        grain := .event, turnScript := [.hopK], seqD := .busy 0x10#8 0 [.send 1#8 none] (Response.done [])
        pending := [⟨.hopD, [0x28#8]⟩, ⟨.hopK, [0x31#8]⟩] })).map (fun t => (t.seqK, t.pending)) =
        some (.busy 0x31#8 0 false ⟨.ok, [0#8], none⟩, [⟨.hopD, [0x28#8]⟩]) := by decide

/-- One move: its event is recorded and `k` counts it (R21). -/
theorem test_step_moves :
    (result (step { base with
      grain := .event, turnScript := [.hopD], seqD := .busy 0x10#8 0 [.send 1#8 none] (Response.done []) })).map
        (fun t => (t.seqD, t.traceD)) =
      some (.busy 0x10#8 1 [] (Response.done []), [.xfer [1#8]]) := by decide

/-! ### The observer of the display bus (R66, R67, R69) -/

/-- Screen of P2: two rows in one column. -/
theorem test_observer :
    (Observer.start.watch (cmd 0x2A#8 [0#8, 6#8, 0#8, 7#8] ++ cmd 0x2B#8 [0#8, 8#8, 0#8, 9#8] ++
      paint [[0xAB#8, 0xCD#8, 0#8], [1#8, 0#8, 2#8]])).painted =
      [(6, 8, 0xABCD#16), (7, 8, 1#16), (6, 9, 2#16)] ∧
    (Observer.start.watch (paint [[0xF8#8, 0#8]])).painted = [] := by decide

/-- Program P5 of 95_test_vectors.md: the row-set opcode fails, so a fill that hits the cache has no place on the panel,
and one after the row frame has. -/
theorem test_observer_failure :
    let cols := cmd 0x2A#8 [0#8, 0#8, 0#8, 0#8]
    let lost := Observer.start.operation (cols ++ [.drive .sel false, .drive .dc false, .xfer [0x2B#8]]) .busFail
    (lost.cols = some (0#16, 0#16) ∧ lost.rows = none ∧ lost.sel = none) ∧
      (lost.watch (paint [[0#8, 1#8]])).painted = [] ∧
      (lost.watch (cmd 0x2B#8 [0#8, 3#8, 0#8, 3#8] ++ paint [[0#8, 1#8]])).painted = [(0, 3, 1#16)] ∧
      (lost.watch [.xfer [1#8]]).cols = none := by decide

/-- R69: the reset line and software-reset, and a pixel beyond the window (R68). -/
theorem test_observer_forgets :
    let known := { Observer.start with cols := some (0#16, 0#16), rows := some (0#16, 0#16) }
    ((known.watch [.drive .rst false]).cols = none ∧ (known.watch (cmd 0x01#8 [])).rows = none) ∧
      (known.watch (cmd 0x02#8 [])).cols = none ∧
      (known.watch (paint [[0#8, 1#8]])).painted = [(0, 0, 1#16)] ∧
      (known.watch (paint [[0#8, 1#8, 0#8, 2#8]])).painted = [] := by decide

/-! ### Witnesses: each meets all hypotheses of the statement it is named after -/

/-- A next state is answered, at operands given. -/
theorem next_of (i : Instr) (s : State) (h : (result (exec i s)).isSome = true) : ∃ t, exec i s = .next t :=
  result_some h

theorem witness_EveryFrameDecodesToItsInstruction :
    (Instr.writeBytes [1#8]).wf = true ∧ (Instr.memoryWrite [1#16]).wf = true ∧ Instr.kbdReq.wf = true ∧
      (Instr.kbdRspInvalid 4#8 0#8).wf = true ∧ (Instr.kbdRspInvalid 255#8 0#8).wf = true := by decide

theorem witness_DecodedFrameIsTheEncodedOne :
    decode .hostReq [0x28#8] = .ok .size ∧ decode .dispCmd [0x29#8] = .ok .displayOn ∧
      decode .kbdReq [0x09#8] = .ok .kbdReq ∧ decode .kbdRsp [0#8, 0#8] = .ok (.kbdRspNone 0#8) := by decide

/-- The unassigned ranges of R82 at their ends, and the selectors beside them. -/
theorem witness_UnassignedSelectorsAreRejected :
    (∀ sel ∈ [0x00#8, 0x03#8, 0x0F#8, 0x14#8, 0x1F#8, 0x29#8, 0x2F#8, 0x32#8, 0x3F#8, 0x45#8, 0xFF#8],
      decodeHost [sel] = .error (.unassigned sel)) ∧
    ∀ sel ∈ [0x01#8, 0x02#8, 0x10#8, 0x13#8, 0x20#8, 0x28#8, 0x30#8, 0x31#8, 0x40#8, 0x44#8],
      decodeHost [sel] ≠ .error (.unassigned sel) := by decide

/-- Whole: the first pending request. Event: a request for the port whose turn it is, or a busy port. -/
theorem witness_StepRunsTheDecodedInstruction :
    (base.grain = .whole ∧ base.seqD = .idle ∧ base.seqK = .idle ∧ decode Channel.hopD.format [0x28#8] = .ok .size) ∧
      (∀ p, ({ base with grain := .event, turnScript := [p] } : State).turn = p) ∧
      takeFor .hopD [⟨.hopK, [0x31#8]⟩, ⟨.hopD, [0x28#8]⟩] = some (⟨.hopD, [0x28#8]⟩, [⟨.hopK, [0x31#8]⟩]) ∧
      takeFor .hopK [⟨.hopD, [0x28#8]⟩, ⟨.hopK, [0x31#8]⟩] = some (⟨.hopK, [0x31#8]⟩, [⟨.hopD, [0x28#8]⟩]) ∧
      decode Channel.hopK.format [0x31#8] = .ok .kbdLatch ∧
      ({ base with seqD := .busy 0x10#8 0 [] (Response.done []) } : State).seqD ≠ .idle ∧
      ({ base with seqK := .busy 0x30#8 0 true (Response.done []) } : State).seqK ≠ .idle :=
  ⟨by decide, fun _ => rfl, by decide, by decide, by decide, by decide, by decide⟩

theorem witness_IllegalSelectorsAndShortFrames :
    (base.grain = .whole ∧ base.seqD = .idle ∧ base.seqK = .idle ∧ decodeHost [0x45#8] = .error (.unassigned 0x45#8)) ∧
      (Instr.kbdPoll.format = .hostReq ∧ base.Ready .hopD ∧ acceptedOn .kbdPoll .hopD = false) ∧
      (Instr.size.format = .hostReq ∧ (keys 0#8 0#8).Ready .hopK ∧ acceptedOn .size .hopK = false) ∧
      (Instr.writeByte 1#8).wf = true ∧ 1 < (encode (.writeByte 1#8)).length ∧ 0 < (encode .size).length := by decide

/-- Log 9's corner: the length is judged before the port, so a short `WRITE_BYTE` on HOP_K is stuck, and a whole one
answers `ILLEGAL_OP`. -/
theorem witness_IllegalSelectorsAndShortFrames_order :
    acceptedOn (.writeByte 1#8) .hopK = false ∧ (encode (.writeByte 1#8)).take 1 = [0x10#8] ∧
      submitted .hopK [0x10#8] = .fault .shortFrame ∧
      (result (submitted .hopK [0x10#8, 1#8])).map (fun t => t.rspK.map Response.frame) = some [[0x03#8, 0x10#8]] :=
  ⟨rfl, rfl, rfl, by decide⟩

theorem witness_BusyPortAcceptsNothing :
    Instr.size.format = .hostReq ∧
      ({ base with seqD := .busy 0x10#8 0 [] (Response.done []) } : State).portIsBusy = true ∧
      ({ keys 0#8 0#8 with seqK := .busy 0x30#8 0 true (Response.done []) } : State).portIsBusy = true := by decide

/-- A machine in the middle of a stream, with a buffer, meets the invariant. -/
def running : State :=
  { buffers with
    grain := .event, turnScript := [.hopD], tb := [5#8, 6#8, 0#8, 0#8, 0#8, 0#8, 0#8]
    seqD := .busy 0x11#8 1 [.chunk [7#8, 8#8, 9#8] none] (Response.done []) }

/-- The same about to create a buffer. -/
def creating : State := { running with seqD := .busy 0x40#8 0 [.pbNew 2#16 3#16] (Response.done [1#8]) }

theorem buffers_inv : buffers.Inv where
  tbSize := by decide
  fillZero := rfl
  pbWords := by decide
  nextCounts := rfl
  usedCounts := rfl
  slotsBound := by decide
  wordsBound := by decide
  restOk := fun _ _ _ _ h => by cases h

theorem running_inv : running.Inv where
  tbSize := by decide
  fillZero := rfl
  pbWords := by decide
  nextCounts := rfl
  usedCounts := rfl
  slotsBound := by decide
  wordsBound := by decide
  restOk := fun _ _ _ _ h => by
    cases h
    left
    intro a ha
    rw [List.mem_singleton.1 ha]
    exact ⟨by decide, by decide⟩

theorem creating_inv : creating.Inv where
  tbSize := by decide
  fillZero := rfl
  pbWords := by decide
  nextCounts := rfl
  usedCounts := rfl
  slotsBound := by decide
  wordsBound := by decide
  restOk := fun _ _ _ _ h => by
    cases h
    exact .inr ⟨2#16, 3#16, rfl, by decide, by decide⟩

theorem witness_EveryStepKeepsInvariant :
    (running.Inv ∧ ∃ t, step running = .next t) ∧ creating.Inv ∧ ∃ t, step creating = .next t :=
  ⟨⟨running_inv, result_some (by decide)⟩, creating_inv, result_some (by decide)⟩

theorem witness_EveryStepKeepsParametersAndBuffers :
    (∃ t, step creating = .next t) ∧ creating.pbs[0]? = some ⟨2#16, 2#16, [1#16, 2#16, 3#16, 4#16]⟩ :=
  ⟨result_some (by decide), by decide⟩

theorem witness_EveryTransactionFitsTheBuffer :
    running.Inv ∧ (∀ bs, .xfer bs ∈ running.traceD → 1 ≤ bs.length ∧ bs.length ≤ running.cfg.bufCap) ∧
      ∃ t, step running = .next t :=
  ⟨running_inv, fun _ h => absurd h List.not_mem_nil, result_some (by decide)⟩

theorem witness_ready : base.Ready .hopD ∧ (keys 0#8 0#8).Ready .hopK := by decide

theorem witness_ToPackedTruncatesAndPacks : base.Ready .hopD ∧ (keys 0#8 0#8).Ready .hopK := witness_ready

theorem witness_MakePackedMasksAndPacks : base.Ready .hopD ∧ (keys 0#8 0#8).Ready .hopK := witness_ready

theorem witness_ToPackedIsMakePackedOfQuantized : base.Ready .hopD ∧ (keys 0#8 0#8).Ready .hopK := witness_ready

/-- The bus at its `j`-th answer: all good for `ok` answers, then a failure. -/
def failing (ok : Nat) : State :=
  { base with busScript := List.replicate ok .ok ++ [.fail ⟨7⟩ ⟨false, true, true⟩] }

theorem failing_at : (failing 0).Ready .hopD ∧ (failing 0).busAt 0 = .fail ⟨7⟩ ⟨false, true, true⟩ ∧
    (failing 2).BusOk 2 ∧ (failing 2).busAt 2 = .fail ⟨7⟩ ⟨false, true, true⟩ := by decide

theorem witness_WriteByteIsOneTransaction : base.Ready .hopD ∧ base.BusOk 1 ∧ (failing 0).busAt 0 ≠ .ok := by decide

theorem witness_WriteBytesStreamsItsBytes :
    base.Ready .hopD ∧ base.BusOk (xferCount ((chunks 7 1 [1#8, 2#8]).map .xfer)) ∧
      0 < xferCount ((chunks 7 1 [1#8, 2#8]).map .xfer) ∧ (failing 0).busAt 0 ≠ .ok := by decide

theorem witness_WriteRep16StreamsItsCopies :
    base.Ready .hopD ∧ base.BusOk (xferCount ((chunks 7 2 (List.replicate 8 1#8)).map .xfer)) ∧
      1 < xferCount ((chunks 7 2 (List.replicate 8 1#8)).map .xfer) ∧ (failing 1).BusOk 1 ∧
      (failing 1).busAt 1 ≠ .ok := by decide

theorem witness_WritePackedArrayStreamsItsColours :
    base.Ready .hopD ∧ base.BusOk (xferCount ((chunks 7 2 [1#8, 2#8]).map .xfer)) ∧
      0 < xferCount ((chunks 7 2 [1#8, 2#8]).map .xfer) ∧ (failing 0).busAt 0 ≠ .ok := by decide

/-- Section 2.2: a payload of none, of one chunk, of one chunk and a byte; an odd capacity with a unit of 2. -/
theorem witness_ChunkLengths :
    (chunks 5 1 []).map List.length = [] ∧ (chunks 5 1 (List.replicate 5 0#8)).map List.length = [5] ∧
      (chunks 5 1 (List.replicate 11 0#8)).map List.length = [5, 5, 1] ∧
      (chunks 5 2 (List.replicate 6 0#8)).map List.length = [4, 2] ∧
      (chunks 3 2 (List.replicate 6 0#8)).map List.length = [2, 2, 2] ∧
      (chunks 2 2 (List.replicate 4 0#8)).map List.length = [2, 2] := by decide

theorem witness_TransportInvariants :
    (base.Ready .hopD ∧ ∃ t, exec (.writeByte 1#8) base = .next t) ∧
      (∃ t, exec (.writeBytes [1#8, 2#8]) base = .next t) ∧ (∃ t, exec (.writeRep16 1#16 5#32) base = .next t) ∧
      ∃ t, exec (.writePackedArray [1#16, 2#16]) (failing 0) = .next t :=
  ⟨⟨by decide, next_of _ _ (by decide)⟩, next_of _ _ (by decide), next_of _ _ (by decide), next_of _ _ (by decide)⟩

/-- All well; a failure in the column frame; a failure in the row frame; a cache hit on one axis and on both. -/
theorem witness_SetWindowSendsTheChangedAxes :
    base.Ready .hopD ∧ base.BusOk (xferCount (windowEvents base 1 2 3 4)) ∧
      xferCount (columnEvents base 1#16 3#16) = 2 ∧ xferCount (windowEvents base 1 2 3 4) = 4 ∧
      ((failing 0).busAt 0 ≠ .ok ∧ (failing 2).BusOk 2 ∧ (failing 2).busAt 2 ≠ .ok) ∧
      xferCount (windowEvents base 0 2 1 4) = 2 ∧ windowEvents base 0 0 1 1 = [] := by decide

theorem witness_SameWindowTwiceIsACacheHit :
    (base.Ready .hopD ∧ base.BusOk (xferCount (opEvents (.setWindow 0#16 10#16 15#16 20#16) base))) ∧
      (∃ t, exec (.setWindow 0#16 10#16 15#16 20#16) base = .next t) ∧
      ((trunc16 0, trunc16 (0 + 16 - 1)) ≠ (trunc16 0, trunc16 (0 + 15 - 1)) ∧
        (trunc16 11, trunc16 (11 + 20 - 1)) ≠ (trunc16 10, trunc16 (10 + 20 - 1))) ∧
      (failing 0).BusOk 0 ∧ (failing 0).busAt 0 = .fail ⟨7⟩ ⟨false, true, true⟩ ∧
      0 < xferCount (frameEvents 7 0x2A#8 [0#8, 0#8, 0#8, 15#8]) :=
  ⟨by decide, next_of _ _ (by decide), by decide, by decide, by decide, by decide⟩

/-- A drawing primitive's four transactions before its stream, failing in the column frame, the row frame and the stream:
the hypotheses of `State.Draws`, for every primitive. -/
theorem witness_draws :
    xferCount (paintEvents base 1 2 1 1 [0#8, 1#8]) = 6 ∧ xferCount (columnEvents base 1#16 1#16) = 2 ∧
      xferCount (rowEvents base 2#16 2#16) = 2 ∧
      (∀ j ∈ [0, 1, 2, 3, 4, 5], (failing j).BusOk j ∧ (failing j).busAt j = .fail ⟨7⟩ ⟨false, true, true⟩) ∧
      ∀ j ∈ [0, 1, 2, 3, 4, 5], (result (exec (.setPixel 1#16 2#16 1#16) (failing j))).isSome := by decide

/-- The panel's corners are drawn; `test_setPixel_dropped` has the pixels just off it. -/
theorem witness_SetPixelDrawsOrDrops :
    base.Ready .hopD ∧ base.BusOk (xferCount (opEvents (.setPixel 319#16 319#16 1#16) base)) ∧
      opEvents (.setPixel 319#16 319#16 1#16) base ≠ [] ∧ opEvents (.setPixel 0#16 0#16 1#16) base ≠ [] ∧
      opEvents (.setPixel 320#16 0#16 1#16) base = [] ∧ opEvents (.setPixel 0#16 (-1#16) 1#16) base = [] := by decide

theorem witness_DrawHLineClampsAndDraws :
    base.Ready .hopD ∧ base.BusOk (xferCount (opEvents (.drawHLine 0#16 1#16 319#16 1#16) base)) ∧
      opEvents (.drawHLine 0#16 1#16 319#16 1#16) base ≠ [] ∧ opEvents (.drawHLine 0#16 1#16 320#16 1#16) base = [] ∧
      opEvents (.drawHLine 7#16 7#16 0#16 1#16) base ≠ [] ∧ opEvents (.drawHLine 7#16 7#16 0#16 1#16) bare = [] := by
  decide

theorem witness_DrawVLineClampsAndDraws :
    base.Ready .hopD ∧ base.BusOk (xferCount (opEvents (.drawVLine 319#16 0#16 1#16 1#16) base)) ∧
      opEvents (.drawVLine 319#16 0#16 1#16 1#16) base ≠ [] ∧ opEvents (.drawVLine (-1#16) 0#16 1#16 1#16) base = [] ∧
      opEvents (.drawVLine 0#16 7#16 7#16 1#16) base ≠ [] ∧ opEvents (.drawVLine 0#16 7#16 7#16 1#16) bare = [] := by
  decide

theorem witness_FillRectClipsAndFills :
    base.Ready .hopD ∧ base.BusOk (xferCount (opEvents (.fillRect (-1#16) 319#16 2#16 2#16 1#16) base)) ∧
      opEvents (.fillRect (-1#16) 319#16 2#16 2#16 1#16) base ≠ [] ∧
      opEvents (.fillRect (-2#16) 0#16 2#16 2#16 1#16) base = [] ∧
      opEvents (.fillRect 320#16 0#16 2#16 2#16 1#16) base = [] ∧
      opEvents (.fillRect 320#16 0#16 2#16 2#16 1#16) bare ≠ [] := by decide

theorem witness_BlitDrawsOrRejects :
    (buffers.Ready .hopD ∧ buffers.pbmNext ≤ (1#8).toNat ∧ (0#8).toNat < buffers.pbmNext ∧
      buffers.pbs[0]? = some ⟨2#16, 2#16, [1#16, 2#16, 3#16, 4#16]⟩) ∧
      opEvents (.blit 317#16 317#16 0#8) buffers ≠ [] ∧ opEvents (.blit 318#16 0#16 0#8) buffers = [] ∧
      opEvents (.blit 0#16 318#16 0#8) buffers = [] ∧ opEvents (.blit 0#16 (-1#16) 0#8) buffers = [] := by decide

theorem witness_ResetPulsesOrCommands :
    base.Ready .hopD ∧ base.cfg.hasRst = true ∧ bare.Ready .hopD ∧ bare.cfg.hasRst = false ∧
      bare.BusOk (xferCount (opEvents .reset bare)) := by decide

theorem witness_InitSendsTheSequence :
    base.Ready .hopD ∧ base.BusOk (xferCount (opEvents .init base)) ∧ 2 < xferCount (opEvents .init base) ∧
      (failing 2).busAt 2 ≠ .ok := by decide

theorem witness_SizeRepliesThePanel : base.Ready .hopD := by decide

/-- A frame sent, and none. -/
theorem witness_FramesEndDeselectedInDataMode :
    (base.Ready .hopD ∧ base.BusOk (xferCount (opEvents (.setPixel 1#16 1#16 1#16) base))) ∧
      (∃ t, exec (.setPixel 1#16 1#16 1#16) base = .next t) ∧
      .xfer [0x2C#8] ∈ opEvents (.setPixel 1#16 1#16 1#16) base ∧
      opEvents .size base = [] ∧ ∃ t, exec .size base = .next t :=
  ⟨by decide, next_of _ _ (by decide), by decide, by decide, next_of _ _ (by decide)⟩

theorem witness_EveryDisplayTransactionIsFramed :
    base.Ready .hopD ∧ (∃ t, exec (.setPixel 1#16 1#16 1#16) base = .next t ∧
      t.traceD = base.traceD ++ [.drive .sel false, .drive .dc false] ++ .xfer [0x2A#8] :: t.traceD.drop 3) ∧
      (∃ t, exec .init (failing 2) = .next t) ∧
      Instr.format .displayOn ≠ .hostReq ∧ ∃ t, exec .displayOn base = .next t :=
  ⟨by decide, ⟨_, rfl, by decide⟩, next_of _ _ (by decide), by decide, next_of _ _ (by decide)⟩

theorem witness_OnlySetWindowWritesTheCache :
    base.grain = .whole ∧ (∃ t, exec .init base = .next t) ∧ ∃ t, exec (.columnAddressSet 1#16 2#16) base = .next t :=
  ⟨rfl, next_of _ _ (by decide), next_of _ _ (by decide)⟩

theorem witness_PrimitivesKeepTheWindowInside :
    (base.grain = .whole ∧ base.cfg.rectClipFar = true) ∧ base.WindowInside ∧
      (∃ t, exec (.fillRect 319#16 319#16 9#16 9#16 1#16) base = .next t) ∧
      ∃ t, exec (.setPixel 319#16 319#16 1#16) (failing 0) = .next t :=
  ⟨by decide, ⟨⟨by decide, by decide⟩, by decide, by decide⟩, next_of _ _ (by decide), next_of _ _ (by decide)⟩

theorem witness_FillRectPaintsExactlyItsRectangle :
    (base.Ready .hopD ∧ base.cfg.rectClipFar = true ∧
      base.BusOk (xferCount (opEvents (.fillRect (-1#16) 0#16 3#16 2#16 5#16) base))) ∧
      (∃ o : Observer, o.cols = some (base.colStart, base.colEnd) ∧ o.rows = some (base.rowStart, base.rowEnd)) ∧
      ∃ t, exec (.fillRect (-1#16) 0#16 3#16 2#16 5#16) base = .next t :=
  ⟨by decide, ⟨{ Observer.start with cols := some (0#16, 0#16), rows := some (0#16, 0#16) }, rfl, rfl⟩,
    next_of _ _ (by decide)⟩

/-- Two splits of three bytes, one with an empty part. -/
theorem witness_ChunkingIsInvisible :
    ([[1#8], [], [2#8, 3#8]] : List (List Byte)).flatten = [[1#8, 2#8], [3#8]].flatten := by decide

/-- With a reset line, with the command, with the command failing. Then a fill that hits the cache on both axes, and a
pixel that sends the row frame alone. -/
theorem witness_ObserverForgetsAtReset :
    (base.Ready .hopD ∧ ∃ t, exec .reset base = .next t ∧ t.rspD = base.rspD ++ [⟨.ok, [], none⟩]) ∧
      (bare.Ready .hopD ∧ ∃ t, exec .reset bare = .next t ∧ t.rspD = bare.rspD ++ [⟨.ok, [], none⟩]) ∧
      (∃ t, exec .reset { bare with busScript := [.fail ⟨1⟩ ⟨true, true, true⟩] } = .next t ∧
        t.rspD = bare.rspD ++ [⟨.busFail, [], some ⟨1⟩⟩]) ∧
      (∃ t, exec (.fillRect 0#16 0#16 1#16 1#16 5#16) base = .next t ∧
        t.traceD = base.traceD ++ paintEvents base 0 0 1 1 [0#8, 5#8]) ∧
      (∃ t, exec (.setPixel 0#16 3#16 5#16) base = .next t ∧
        t.traceD = base.traceD ++ paintEvents base 0 3 1 1 [0#8, 5#8]) ∧
      (Observer.start.cols = none ∧ columnEvents base (trunc16 0) (trunc16 (0 + 1 - 1)) = []) ∧
      Observer.start.rows = none ∧ rowEvents base (trunc16 0) (trunc16 (0 + 1 - 1)) = [] :=
  ⟨⟨by decide, _, rfl, by decide⟩, ⟨by decide, _, rfl, by decide⟩, ⟨_, rfl, by decide⟩, ⟨_, rfl, by decide⟩,
    ⟨_, rfl, by decide⟩, ⟨rfl, by decide⟩, rfl, by decide⟩

/-- The column frame fails; the row frame fails after it; the row frame alone fails. -/
theorem witness_ObserverLosesTheFailedAxis :
    ((failing 0).Ready .hopD ∧ 0 < xferCount (opEvents (.setWindow 1#16 2#16 3#16 4#16) (failing 0)) ∧
      (failing 0).BusOk 0 ∧ (failing 0).busAt 0 = .fail ⟨7⟩ ⟨false, true, true⟩ ∧
      ∃ t, exec (.setWindow 1#16 2#16 3#16 4#16) (failing 0) = .next t) ∧
    ((failing 2).Ready .hopD ∧ 2 < xferCount (opEvents (.setWindow 1#16 2#16 3#16 4#16) (failing 2)) ∧
      xferCount (columnEvents (failing 2) 1#16 3#16) = 2 ∧
      (failing 2).BusOk 2 ∧ (failing 2).busAt 2 = .fail ⟨7⟩ ⟨false, true, true⟩ ∧
      ∃ t, exec (.setWindow 1#16 2#16 3#16 4#16) (failing 2) = .next t) ∧
    columnEvents (failing 0) 0#16 0#16 = [] ∧
      0 < xferCount (opEvents (.setWindow 0#16 2#16 1#16 4#16) (failing 0)) :=
  ⟨⟨by decide, by decide, by decide, by decide, next_of _ _ (by decide)⟩,
    ⟨by decide, by decide, by decide, by decide, by decide, next_of _ _ (by decide)⟩, by decide, by decide⟩

/-- Each tag at both ends of its range, and a failure. -/
theorem witness_KbdPollClassifies :
    (keys 0#8 0#8).Ready .hopK ∧ (∀ tag ∈ [0#8, 1#8, 2#8, 3#8, 4#8, 255#8], (keys tag 0xA1#8).kbdAnswer = .bytes tag 0xA1#8) ∧
      ({ keys 0#8 0#8 with kbdScript := [.fail ⟨3⟩] } : State).kbdAnswer = .fail ⟨3⟩ := by decide

theorem witness_KbdLatchRepliesTheLatches : (keys 0#8 0#8).Ready .hopK ∧ (latched true true 0#8 0#8).Ready .hopK := by
  decide

theorem witness_KeyboardSideSeesOnlyItself :
    (Instr.kbdPoll.format = .hostReq ∧ (keys 1#8 0xA1#8).Ready .hopK ∧
      ({ keys 1#8 0xA1#8 with colEnd := 9#16, sel := false, pbmNext := 1 } : State).Ready .hopK) ∧
    SameKeyboard (keys 1#8 0xA1#8) { keys 1#8 0xA1#8 with colEnd := 9#16, sel := false, pbmNext := 1 } ∧
      (∃ t, exec .kbdPoll (keys 1#8 0xA1#8) = .next t) ∧
      ∃ t, exec .kbdPoll { keys 1#8 0xA1#8 with colEnd := 9#16, sel := false, pbmNext := 1 } = .next t :=
  ⟨by decide, ⟨rfl, rfl, rfl, rfl, rfl, rfl, rfl⟩, next_of _ _ (by decide), next_of _ _ (by decide)⟩

/-- Both capacities at their bound, from either side. -/
theorem witness_PbCreateAllocatesOrRefuses :
    (buffers.Ready .hopD ∧ buffers.Inv) ∧ buffers.pbmUsed + 2 * 3 = buffers.cfg.pbmWords ∧
      buffers.cfg.pbmWords < buffers.pbmUsed + 7 * 1 ∧ buffers.pbmNext < buffers.cfg.pbmSlots :=
  ⟨⟨by decide, buffers_inv⟩, by decide, by decide, by decide⟩

/-- The buffer of the PBM's witnesses: handle 0 is known, handle 1 is not; pixel (1, 1) is its last. -/
theorem witness_buffer :
    buffers.Ready .hopD ∧ buffers.pbmNext ≤ (1#8).toNat ∧ (0#8).toNat < buffers.pbmNext ∧
      buffers.pbs[(0#8).toNat]? = some ⟨2#16, 2#16, [1#16, 2#16, 3#16, 4#16]⟩ ∧
      (⟨2#16, 2#16, [1#16, 2#16, 3#16, 4#16]⟩ : PixelBuffer).index? 1 1 = some 3 ∧
      (⟨2#16, 2#16, [1#16, 2#16, 3#16, 4#16]⟩ : PixelBuffer).index? 2 1 = none := by decide

theorem witness_PbSetWritesOneWord :
    buffers.Ready .hopD ∧ buffers.pbmNext ≤ (1#8).toNat ∧ (0#8).toNat < buffers.pbmNext ∧
      buffers.pbs[(0#8).toNat]? = some ⟨2#16, 2#16, [1#16, 2#16, 3#16, 4#16]⟩ :=
  ⟨witness_buffer.1, witness_buffer.2.1, witness_buffer.2.2.1, witness_buffer.2.2.2.1⟩

theorem witness_PbFillWritesEveryWord :
    (buffers.Ready .hopD ∧ buffers.Inv) ∧ buffers.pbmNext ≤ (1#8).toNat ∧ (0#8).toNat < buffers.pbmNext :=
  ⟨⟨witness_buffer.1, buffers_inv⟩, witness_buffer.2.1, witness_buffer.2.2.1⟩

theorem witness_PbGetRepliesTheWord :
    (buffers.Ready .hopD ∧ buffers.Inv) ∧ buffers.pbmNext ≤ (1#8).toNat ∧ (0#8).toNat < buffers.pbmNext :=
  ⟨⟨witness_buffer.1, buffers_inv⟩, witness_buffer.2.1, witness_buffer.2.2.1⟩

theorem witness_PbSizeRepliesTheSize :
    buffers.Ready .hopD ∧ buffers.pbmNext ≤ (1#8).toNat ∧ (0#8).toNat < buffers.pbmNext :=
  ⟨witness_buffer.1, witness_buffer.2.1, witness_buffer.2.2.1⟩

theorem witness_PbGetReadsWhatPbSetWrote :
    (buffers.Ready .hopD ∧ buffers.Inv) ∧ (0#8).toNat < buffers.pbmNext ∧
      (0 ≤ (1#16).toInt ∧ (1#16).toInt < (2#16).toNat ∧ (1#16, 0#16) ≠ (1#16, 1#16)) ∧
      ∃ t, exec (.pbSet 0#8 1#16 1#16 9#16) buffers = .next t :=
  ⟨⟨witness_buffer.1, buffers_inv⟩, witness_buffer.2.2.1, by decide, next_of _ _ (by decide)⟩

theorem witness_DisplayCommandsSendTheirFrame :
    base.BusOk (xferCount (frameEvents 7 0xC5#8 [1#8, 2#8, 3#8, 4#8])) ∧
      base.BusOk (xferCount (memWriteEvents 7 [1#8, 2#8])) ∧
      0 < xferCount (frameEvents 7 0x01#8 []) ∧ (failing 0).BusOk 0 ∧
      (failing 0).busAt 0 = .fail ⟨7⟩ ⟨false, true, true⟩ := by decide

theorem witness_KbdReqMakesTheTransaction :
    (keys 1#8 2#8).kbdAnswer = .bytes 1#8 2#8 ∧
      ({ base with kbdScript := [.fail ⟨3⟩] } : State).kbdAnswer = .fail ⟨3⟩ := by decide

/-- Both modifiers and another key. -/
theorem witness_KbdResponsesAreClassified :
    base.cfg.keyCtrl = 0xA5#8 ∧ (0x41#8 : Byte) ≠ 0xA1#8 ∧ (0x41#8 : Byte) ≠ base.cfg.keyCtrl := by
  decide

theorem witness_WholeOperationIsItsMoves :
    Instr.init.format = .hostReq ∧ base.Ready .hopD ∧ Instr.kbdPoll.format = .hostReq ∧ (keys 1#8 2#8).Ready .hopK := by
  decide

/-- A move with an event and one without; the response; the poll and its response. -/
theorem witness_EachEventAdvancesTheIndex :
    running.seqD = .busy 0x11#8 1 [.chunk [7#8, 8#8, 9#8] none] (Response.done []) ∧
      creating.seqD = .busy 0x40#8 0 [.pbNew 2#16 3#16] (Response.done [1#8]) ∧
      ({ base with seqD := .busy 0x28#8 0 [] (Response.done []) } : State).seqD =
        .busy 0x28#8 0 [] (Response.done []) ∧
      ({ base with seqK := .busy 0x30#8 0 true (Response.done []) } : State).seqK =
        .busy 0x30#8 0 true (Response.done []) ∧
      ({ base with seqK := .busy 0x30#8 1 false (Response.done []) } : State).seqK =
        .busy 0x30#8 1 false (Response.done []) := ⟨rfl, rfl, rfl, rfl, rfl⟩

theorem witness_PureOperationsOnlyReply :
    (∃ t, exec (.pbGet 0#8 5#16 0#16) buffers = .next t) ∧ (∃ t, exec .kbdLatch (keys 0#8 0#8) = .next t) ∧
      ∃ t, exec (.makePacked 1#8 2#8 3#8) (keys 0#8 0#8) = .next t :=
  ⟨next_of _ _ (by decide), next_of _ _ (by decide), next_of _ _ (by decide)⟩

theorem witness_TransportFrame :
    base.Ready .hopD ∧ (∃ t, exec (.writeBytes [1#8, 2#8]) base = .next t) ∧
      ∃ t, exec (.writeByte 1#8) (failing 0) = .next t :=
  ⟨by decide, next_of _ _ (by decide), next_of _ _ (by decide)⟩

theorem witness_DisplayFrame :
    base.Ready .hopD ∧ (∃ t, exec .reset base = .next t) ∧
      ∃ t, exec (.drawHLine 1#16 2#16 3#16 4#16) (failing 2) = .next t :=
  ⟨by decide, next_of _ _ (by decide), next_of _ _ (by decide)⟩

theorem witness_PixelBufferFrame :
    buffers.Ready .hopD ∧ (∃ t, exec (.pbCreate 2#16 3#16) buffers = .next t) ∧
      (∃ t, exec (.pbSet 0#8 1#16 1#16 9#16) buffers = .next t) ∧ ∃ t, exec (.pbFill 0#8 9#16) buffers = .next t :=
  ⟨by decide, next_of _ _ (by decide), next_of _ _ (by decide), next_of _ _ (by decide)⟩

theorem witness_DisplayCommandFrame :
    Instr.format (.memoryWrite [1#16]) = .dispCmd ∧ (∃ t, exec (.memoryWrite [1#16]) base = .next t) ∧
      ∃ t, exec (.columnAddressSet 1#16 2#16) (failing 0) = .next t :=
  ⟨rfl, next_of _ _ (by decide), next_of _ _ (by decide)⟩

theorem witness_KeyboardFrame :
    (Instr.kbdRspDown 0xA1#8 ≠ .kbdPoll ∧ ∃ t, exec (.kbdRspDown 0xA1#8) base = .next t) ∧
    (keys 1#8 0xA1#8).Ready .hopK ∧ (∃ t, exec .kbdPoll (keys 1#8 0xA1#8) = .next t) ∧
      (keys 1#8 0x41#8).kbdAnswer = .bytes 1#8 0x41#8 ∧ (0x41#8 : Byte) ≠ 0xA1#8 ∧
      (0x41#8 : Byte) ≠ (keys 1#8 0x41#8).cfg.keyCtrl :=
  ⟨⟨by decide, next_of _ _ (by decide)⟩, by decide, next_of _ _ (by decide), by decide, by decide, by decide⟩

end Sys2Proof.Tests
end

/-! ### What a step can do

A step by `step_cases`, a submitted request by `submit_cases`, an instruction by `exec_shape`, an accepted plan by
`runHost_cases`. -/

namespace Sys2Proof.Machine

/-- The end of the step that a `Fetched` asks for. -/
def Fetched.outcome : Fetched → Host.Outcome State Fault Refusal
  | .run i s => exec i s
  | .over o => o

theorem step_eq_outcome (s : State) : step s = (fetch s).outcome := by
  unfold step Fetched.outcome
  cases fetch s <;> rfl

/-- A port has an operation in progress (R21). -/
def State.Busy (s : State) (p : Port) : Prop :=
  match p with
  | .hopD => s.seqD ≠ .idle
  | .hopK => s.seqK ≠ .idle

theorem portIsBusy_eq_false (s : State) : s.portIsBusy = false ↔ ¬ s.Busy s.port := by
  unfold State.portIsBusy State.Busy
  cases s.port with
  | hopD => cases s.seqD <;> simp
  | hopK => cases s.seqK <;> simp

/-- All that a step with a next state can be, in either grain (log 1), with the guards under which it is that. -/
inductive Stepped (s t : State) : Prop
  /-- HOP_D completes its operation. -/
  | finishesD (grain : s.grain = .whole) (busy : s.Busy .hopD) (next : t = finishD s)
  /-- HOP_K completes its operation. -/
  | finishesK (grain : s.grain = .whole) (idleD : ¬ s.Busy .hopD) (busy : s.Busy .hopK) (next : t = finishK s)
  /-- Nothing is left to do (70_reset_and_hazards.md R261). -/
  | waits (grain : s.grain = .whole) (idleD : ¬ s.Busy .hopD) (idleK : ¬ s.Busy .hopK) (empty : s.pending = [])
      (next : t = s)
  /-- The first pending request is submitted to an idle block. -/
  | submits (r : Request) (rs : List Request) (grain : s.grain = .whole) (idleD : ¬ s.Busy .hopD)
      (idleK : ¬ s.Busy .hopK) (first : s.pending = r :: rs)
      (next : (submit r { s with pending := rs }).outcome = .next t)
  /-- The busy port whose turn it is makes one move. -/
  | moves (grain : s.grain = .event) (busy : s.Busy s.turn) (next : t = advances s.turn 1 (turnTaken s))
  /-- The idle port whose turn it is has no request. -/
  | passes (grain : s.grain = .event) (idle : ¬ s.Busy s.turn) (noRequest : takeFor s.turn s.pending = none)
      (next : t = turnTaken s)
  /-- The idle port whose turn it is takes its first request. -/
  | takes (r : Request) (rs : List Request) (grain : s.grain = .event) (idle : ¬ s.Busy s.turn)
      (first : takeFor s.turn s.pending = some (r, rs))
      (next : (submit r { turnTaken s with pending := rs }).outcome = .next t)

theorem wholeStep_cases {s t : State} (hg : s.grain = .whole) (h : (wholeStep s).outcome = .next t) :
    Stepped s t := by
  unfold wholeStep at h
  split at h
  case h_1 sel k rest reply hd => exact .finishesD hg (by simp [State.Busy, hd]) (by cases h; rfl)
  case h_2 sel k poll reply hd hk =>
    exact .finishesK hg (by simp [State.Busy, hd]) (by simp [State.Busy, hk]) (by cases h; rfl)
  case h_3 hd hk hp => exact .waits hg (by simp [State.Busy, hd]) (by simp [State.Busy, hk]) hp (by cases h; rfl)
  case h_4 r rs hd hk hp => exact .submits r rs hg (by simp [State.Busy, hd]) (by simp [State.Busy, hk]) hp h

theorem turnD_cases {s t : State} (hg : s.grain = .event) (hp : s.turn = .hopD)
    (h : (turnD (turnTaken s)).outcome = .next t) : Stepped s t := by
  unfold turnD at h
  split at h
  case h_1 sel k rest reply hd =>
    exact .moves hg (by simp [hp, State.Busy, (turnTaken_seqD s).symm.trans hd])
      (by rw [hp]; cases h; rfl)
  case h_2 hd =>
    have idle : ¬ s.Busy s.turn := by simpa [hp, State.Busy] using hd
    split at h
    case h_1 hn => exact .passes hg idle (hp ▸ hn) (by cases h; rfl)
    case h_2 r rs hr => exact .takes r rs hg idle (hp ▸ hr) h

theorem turnK_cases {s t : State} (hg : s.grain = .event) (hp : s.turn = .hopK)
    (h : (turnK (turnTaken s)).outcome = .next t) : Stepped s t := by
  unfold turnK at h
  split at h
  case h_1 sel k poll reply hk =>
    exact .moves hg (by simp [hp, State.Busy, (turnTaken_seqK s).symm.trans hk])
      (by rw [hp]; cases h; rfl)
  case h_2 hk =>
    have idle : ¬ s.Busy s.turn := by simpa [hp, State.Busy] using hk
    split at h
    case h_1 hn => exact .passes hg idle (hp ▸ hn) (by cases h; rfl)
    case h_2 r rs hr => exact .takes r rs hg idle (hp ▸ hr) h

/-- Every step with a next state is one of `Stepped`. -/
theorem step_cases {s t : State} (h : step s = .next t) : Stepped s t := by
  rw [step_eq_outcome, fetch] at h
  cases hg : s.grain with
  | whole => exact wholeStep_cases hg (by simpa only [hg] using h)
  | event =>
    simp only [hg, eventStep] at h
    cases hp : s.turn with
    | hopD => exact turnD_cases hg hp (by simpa only [hp] using h)
    | hopK => exact turnK_cases hg hp (by simpa only [hp] using h)

/-- A submitted request is the instruction its bytes are, or has an unassigned selector and is answered `ILLEGAL_OP`
(30_encoding.md R93). -/
theorem submit_cases {r : Request} {s t : State} (h : (submit r s).outcome = .next t) :
    (∃ i, decode r.chan.format r.bytes = .ok i ∧ exec i { s with port := r.chan.port } = .next t) ∨
      ∃ sel, decode r.chan.format r.bytes = .error (.unassigned sel) ∧ r.chan.format = .hostReq ∧
        runHost sel (Plan.answer (Response.illegal sel)) { s with port := r.chan.port } = .next t := by
  unfold submit at h
  split at h
  case h_1 i hi => exact .inl ⟨i, hi, h⟩
  case h_2 e he =>
    simp only [Fetched.outcome, rejectFrame] at h
    split at h
    case h_1 sel hf => exact .inr ⟨sel, he, hf, h⟩
    all_goals cases h

/-- What the acceptance of a plan with a next state can be: complete, or no further than `BUSY(sel, 0)` (log 1). -/
theorem runHost_cases {sel : Byte} {plan : Plan} {s t : State} (h : runHost sel plan s = .next t) :
    ¬ s.Busy s.port ∧
      (s.grain = .whole ∧ t = finish (accept sel plan s) ∨ s.grain = .event ∧ t = accept sel plan s) := by
  unfold runHost at h
  split at h
  case isTrue => cases h
  case isFalse hb =>
    refine ⟨(portIsBusy_eq_false s).mp (by simpa using hb), ?_⟩
    cases hg : s.grain with
    | whole => exact .inl ⟨rfl, by simpa [hg, eq_comm] using h⟩
    | event => exact .inr ⟨rfl, by simpa [hg, eq_comm] using h⟩

/-- An instruction is a host operation, a display command run on the bench or a keyboard row run on the bench (log 4). -/
theorem exec_shape (i : Instr) (s : State) :
    (i.format = .hostReq ∧ ∃ sel accepts plan, exec i s = hostOp sel accepts plan s) ∨
      (i.format = .dispCmd ∧ ∃ acts, exec i s = innerD acts s) ∨
      ((i.format = .kbdReq ∨ i.format = .kbdRsp) ∧ ∃ row, exec i s = runInner row s) := by
  unfold exec
  cases i with
  | toPacked | makePacked | writeByte | writeBytes | writeRep16 | writePackedArray | setWindow | setPixel | drawHLine
  | drawVLine | fillRect | blit | reset | init | size | kbdPoll | kbdLatch | pbCreate | pbSet | pbFill | pbGet
  | pbSize => exact .inl ⟨rfl, _, _, _, rfl⟩
  | softwareReset | sleepOut | inversionOn | displayOn | columnAddressSet | pageAddressSet | memoryWrite
  | memoryAccessControl | pixelFormat | frameRateControl | displayFunctionControl | powerControl1 | powerControl2
  | vcomControl => exact .inr (.inl ⟨rfl, _, rfl⟩)
  | kbdReq => exact .inr (.inr ⟨.inl rfl, _, rfl⟩)
  | kbdRspNone | kbdRspDown | kbdRspHeld | kbdRspUp | kbdRspInvalid => exact .inr (.inr ⟨.inr rfl, _, rfl⟩)

/-! ### Parameters and Pixel Buffers are kept (R11, R57) -/

/-- The same Pixel Buffer, whatever its words hold. -/
def PixelBuffer.SameSize (b b' : PixelBuffer) : Prop := b'.w = b.w ∧ b'.h = b.h ∧ b'.data.length = b.data.length

/-- What no step undoes: the parameters stay, the counters of the PBM do not fall, and every record keeps its handle and
its size. -/
structure State.Grows (s t : State) : Prop where
  cfg : t.cfg = s.cfg
  next : s.pbmNext ≤ t.pbmNext
  used : s.pbmUsed ≤ t.pbmUsed
  buffers : ∀ (h : Nat) (b : PixelBuffer), s.pbs[h]? = some b → ∃ b', t.pbs[h]? = some b' ∧ b.SameSize b'

theorem State.Grows.of_eq {s t : State} (hc : t.cfg = s.cfg) (hn : t.pbmNext = s.pbmNext) (hu : t.pbmUsed = s.pbmUsed)
    (hb : t.pbs = s.pbs) : s.Grows t :=
  ⟨hc, hn.ge, hu.ge, fun _ b h => ⟨b, hb ▸ h, rfl, rfl, rfl⟩⟩

theorem State.Grows.refl (s : State) : s.Grows s := .of_eq rfl rfl rfl rfl

theorem State.Grows.trans {s t u : State} (st : s.Grows t) (tu : t.Grows u) : s.Grows u where
  cfg := tu.cfg.trans st.cfg
  next := st.next.trans tu.next
  used := st.used.trans tu.used
  buffers h b hb := by
    obtain ⟨b', hb', hw, hh, hd⟩ := st.buffers h b hb
    obtain ⟨b'', hb'', hw', hh', hd'⟩ := tu.buffers h b' hb'
    exact ⟨b'', hb'', hw'.trans hw, hh'.trans hh, hd'.trans hd⟩

/-- Rewriting the words of one record keeps every record's handle and size. -/
theorem modify_buffers {f : PixelBuffer → PixelBuffer} (hf : ∀ b : PixelBuffer, b.SameSize (f b))
    {pbs : List PixelBuffer} (i : Nat) {h : Nat} {b : PixelBuffer} (hb : pbs[h]? = some b) :
    ∃ b', (pbs.modify i f)[h]? = some b' ∧ b.SameSize b' := by
  rw [List.getElem?_modify, hb]
  by_cases hi : i = h
  · exact ⟨f b, by simp [hi], hf b⟩
  · exact ⟨b, by simp [hi], rfl, rfl, rfl⟩

theorem pbNewOp_grows (w h : Half) (s : State) : s.Grows (pbNewOp w h s) where
  cfg := rfl
  next := Nat.le_succ _
  used := Nat.le_add_right _ _
  buffers _ b hb := ⟨b, (List.getElem?_append_left (List.getElem?_eq_some_iff.mp hb).1).trans hb, rfl, rfl, rfl⟩

theorem pbWriteOp_grows (pb : Byte) (i : Nat) (c : Half) (s : State) : s.Grows (pbWriteOp pb i c s) where
  cfg := rfl
  next := le_rfl
  used := le_rfl
  buffers _ _ := modify_buffers (f := fun b => { b with data := b.data.set i c })
    (fun _ => ⟨rfl, rfl, List.length_set⟩) pb.toNat

theorem pbFillOp_grows (pb : Byte) (c : Half) (s : State) : s.Grows (pbFillOp pb c s) where
  cfg := rfl
  next := le_rfl
  used := le_rfl
  buffers _ _ := modify_buffers (f := fun b => { b with data := b.data.map fun _ => c })
    (fun _ => ⟨rfl, rfl, List.length_map _⟩) pb.toNat

theorem apply_grows (a : Act) (s : State) : s.Grows (a.apply s) := by
  cases a with
  | drive pin level => exact .of_eq (driveOp_cfg ..) (driveOp_pbmNext ..) (driveOp_pbmUsed ..) (driveOp_pbs ..)
  | cache c => exact .of_eq (writeCache_cfg ..) (writeCache_pbmNext ..) (writeCache_pbmUsed ..) (writeCache_pbs ..)
  | pbNew w h => exact pbNewOp_grows w h s
  | pbWrite pb i c => exact pbWriteOp_grows pb i c s
  | pbFillAll pb c => exact pbFillOp_grows pb c s
  | send | clearFill | chunk | wait => exact .of_eq rfl rfl rfl rfl

theorem failed_grows (bs : List Byte) (f : Option CacheWrite) (d : FailDraw) (s : State) : s.Grows (failed bs f d s) := by
  rw [failed_eq]
  exact .of_eq rfl rfl rfl rfl

theorem ready_grows (a : Act) (s : State) : s.Grows (a.ready s) := by
  cases a <;> exact .of_eq rfl rfl rfl rfl

theorem perform_grows (a : Act) (s : State) : s.Grows (perform a s).1 := by
  rcases perform_cases a s with h | ⟨bs, e, d, -, -, h⟩ <;> rw [h]
  · exact apply_grows a s
  · exact (ready_grows a s).trans (failed_grows ..)

theorem respondD_grows (r : Response) (s : State) : s.Grows (respondD r s) := .of_eq rfl rfl rfl rfl

theorem respondK_grows (r : Response) (s : State) : s.Grows (respondK r s) := .of_eq rfl rfl rfl rfl

theorem advanceD_grows (s : State) : s.Grows (advanceD s) := by
  unfold advanceD
  split
  case h_1 => exact .refl s
  case h_2 => exact respondD_grows ..
  case h_3 sel k a rest reply hd =>
    have ha := perform_grows a s
    split
    case h_1 t hp => rw [hp] at ha; exact ha.trans (.of_eq rfl rfl rfl rfl)
    case h_2 t r hp => rw [hp] at ha; exact ha.trans (.of_eq rfl rfl rfl rfl)

theorem advancesD_grows (n : Nat) (s : State) : s.Grows (advancesD n s) := by
  induction n generalizing s with
  | zero => exact .refl s
  | succ n ih => exact (advanceD_grows s).trans (ih _)

theorem finishD_grows (s : State) : s.Grows (finishD s) := by
  unfold finishD
  split
  · exact .refl s
  · exact advancesD_grows _ s

theorem setLatch_grows (level : Bool) (key : Byte) (s : State) : s.Grows (setLatch level key s) :=
  .of_eq (setLatch_cfg ..) (setLatch_pbmNext ..) (setLatch_pbmUsed ..) (setLatch_pbs ..)

theorem classify_grows (tag key : Byte) (s : State) : s.Grows (classify tag key s).1 := by
  unfold classify
  cases kbdTag tag with
  | none | invalid => exact .refl s
  | held | up => exact setLatch_grows ..
  | down =>
    simp only [keyDown]
    split
    · exact setLatch_grows ..
    · exact .refl s

theorem pollKeyboard_grows (s : State) : s.Grows (pollKeyboard s).1 := by
  have ht : s.Grows (kbdTransaction s).1 := .of_eq rfl rfl rfl rfl
  unfold pollKeyboard
  split
  case h_1 t e hk => rw [hk] at ht; exact ht
  case h_2 t tag key hk => rw [hk] at ht; exact ht.trans (classify_grows tag key t)

theorem advanceK_grows (s : State) : s.Grows (advanceK s) := by
  unfold advanceK
  split
  · exact .refl s
  · exact respondK_grows ..
  · exact (pollKeyboard_grows s).trans (.of_eq rfl rfl rfl rfl)

theorem finishK_grows (s : State) : s.Grows (finishK s) := by
  unfold finishK
  split
  · exact .refl s
  · exact advanceK_grows s
  · exact (advanceK_grows s).trans (advanceK_grows _)

theorem advances_grows (p : Port) (n : Nat) (s : State) : s.Grows (advances p n s) := by
  induction n generalizing s with
  | zero => exact .refl s
  | succ n ih =>
    cases p with
    | hopD => exact (advanceD_grows s).trans (ih _)
    | hopK => exact (advanceK_grows s).trans (ih _)

theorem accept_grows (sel : Byte) (plan : Plan) (s : State) : s.Grows (accept sel plan s) := by
  unfold accept
  split <;> exact .of_eq rfl rfl rfl rfl

theorem finish_grows (s : State) : s.Grows (finish s) := by
  unfold finish
  split
  · exact finishD_grows s
  · exact finishK_grows s

theorem runHost_grows {sel : Byte} {plan : Plan} {s t : State} (h : runHost sel plan s = .next t) : s.Grows t := by
  obtain ⟨-, ⟨-, rfl⟩ | ⟨-, rfl⟩⟩ := runHost_cases h
  · exact (accept_grows sel plan s).trans (finish_grows _)
  · exact accept_grows sel plan s

/-- A row run on the bench leaves the block's own records alone (log 4). -/
theorem runInner_grows {row : State → State × Response} {s t : State} (h : runInner row s = .next t) : s.Grows t := by
  cases h
  exact .of_eq rfl rfl rfl rfl

theorem exec_grows {i : Instr} {s t : State} (h : exec i s = .next t) : s.Grows t := by
  rcases exec_shape i s with ⟨-, sel, accepts, plan, he⟩ | ⟨-, acts, he⟩ | ⟨-, row, he⟩ <;> rw [he] at h
  · exact runHost_grows h
  · exact runInner_grows h
  · exact runInner_grows h

theorem submit_grows {r : Request} {s t : State} (h : (submit r s).outcome = .next t) : s.Grows t := by
  have hport : s.Grows { s with port := r.chan.port } := .of_eq rfl rfl rfl rfl
  rcases submit_cases h with ⟨i, -, hi⟩ | ⟨sel, -, -, hs⟩
  · exact hport.trans (exec_grows hi)
  · exact hport.trans (runHost_grows hs)

theorem turnTaken_grows (s : State) : s.Grows (turnTaken s) := .of_eq rfl rfl rfl rfl

theorem step_grows {s t : State} (h : step s = .next t) : s.Grows t := by
  cases step_cases h with
  | finishesD _ _ next => exact next ▸ finishD_grows s
  | finishesK _ _ _ next => exact next ▸ finishK_grows s
  | waits _ _ _ _ next => exact next ▸ .refl s
  | submits r rs _ _ _ _ next =>
    have hrs : s.Grows { s with pending := rs } := .of_eq rfl rfl rfl rfl
    exact hrs.trans (submit_grows next)
  | moves _ _ next => exact next ▸ (turnTaken_grows s).trans (advances_grows _ 1 _)
  | passes _ _ _ next => exact next ▸ turnTaken_grows s
  | takes r rs _ _ _ next =>
    have hrs : s.Grows { turnTaken s with pending := rs } := .of_eq rfl rfl rfl rfl
    exact hrs.trans (submit_grows next)

/-- Settles O11: every move, acceptance and response is in the relation `State.Grows`, which composes, and `step_cases`
says that a step is made of these. -/
theorem everyStepKeepsParametersAndBuffers : Obligations.EveryStepKeepsParametersAndBuffers := by
  unfold Obligations.EveryStepKeepsParametersAndBuffers
  intro s t h
  obtain ⟨hcfg, hnext, hused, hbuffers⟩ := step_grows h
  exact ⟨hcfg, hnext, hused, hbuffers⟩

end Sys2Proof.Machine

/-! ### Host operations and their plans

By `exec_host` a host operation is the acceptance of its plan, by `exec_host_cases` that plan settled or just accepted;
`hostPlan_ofDisplay` says of which moves a plan is made. -/

namespace Sys2Proof.Machine

/-- What each host operation does on a port that accepts it (30_encoding.md R82). -/
def hostPlan (i : Instr) (s : State) : Plan :=
  match i with
  | .toPacked r g b _ => Plan.answer (Response.done (halfBytes (toPackedColor r g b)))
  | .makePacked r g b => Plan.answer (Response.done (halfBytes (makePackedColor r g b)))
  | .writeByte b => Plan.run [.send b none] []
  | .writeBytes bs => Plan.run (streamActs s.cfg 1 bs none) []
  | .writeRep16 v count => Plan.run (streamActs s.cfg 2 (repeatHalf v (u32 count)) none) []
  | .writePackedArray cs => Plan.run (streamActs s.cfg 2 (pairBytes cs) none) []
  | .setWindow x y w h => Plan.run (windowActs s (s16 x) (s16 y) (s16 w) (s16 h)) []
  | .setPixel x y c => pixelPlan (s16 x) (s16 y) c s
  | .drawHLine x0 x1 y c => hlinePlan (s16 x0) (s16 x1) (s16 y) c s
  | .drawVLine x y0 y1 c => vlinePlan (s16 x) (s16 y0) (s16 y1) c s
  | .fillRect x y w h c => fillPlan (s16 x) (s16 y) (s16 w) (s16 h) c s
  | .blit x y pb => blitPlan i.code (s16 x) (s16 y) pb s
  | .reset => Plan.run (resetActs s.cfg) []
  | .init => Plan.run (initActs s.cfg) []
  | .size =>
    Plan.answer (Response.done (halfBytes (trunc16 Config.panelWidth) ++ halfBytes (trunc16 Config.panelHeight)))
  | .kbdPoll => ⟨[], true, Response.done []⟩
  | .kbdLatch => Plan.answer (Response.done [latchByte s.altDown s.ctrlDown])
  | .pbCreate w h => createPlan w h s
  | .pbSet pb x y c => withBuffer i.code pb s (setPlan pb (s16 x) (s16 y) c)
  | .pbFill pb c => withBuffer i.code pb s (fun _ => Plan.run [.pbFillAll pb c] [])
  | .pbGet pb x y => withBuffer i.code pb s (getPlan i.code (s16 x) (s16 y))
  | .pbSize pb => withBuffer i.code pb s (fun b => Plan.answer (Response.done (halfBytes b.w ++ halfBytes b.h)))
  | _ => Plan.noOp

/-- The plan that is accepted: `ILLEGAL_OP` on a port that does not take the selector (R81, R93). -/
def acceptedPlan (i : Instr) (s : State) : Plan :=
  if acceptedOn i s.port then hostPlan i s else Plan.answer (Response.illegal i.code)

theorem exec_hostOp_of_ports {i : Instr} {s : State} (ports : Port → Bool) (hp : ∀ p, acceptedOn i p = ports p)
    (he : exec i s = hostOp i.code ports (hostPlan i) s) : exec i s = hostOp i.code (acceptedOn i) (hostPlan i) s := by
  rw [he, funext hp]

theorem exec_hostOp {i : Instr} (hf : i.format = .hostReq) (s : State) :
    exec i s = hostOp i.code (acceptedOn i) (hostPlan i) s := by
  cases i with
  | toPacked | makePacked => exact exec_hostOp_of_ports onBoth (fun p => by cases p <;> rfl) rfl
  | kbdPoll | kbdLatch => exact exec_hostOp_of_ports onK (fun p => by cases p <;> rfl) rfl
  | writeByte | writeBytes | writeRep16 | writePackedArray | setWindow | setPixel | drawHLine | drawVLine | fillRect
  | blit | reset | init | size | pbCreate | pbSet | pbFill | pbGet | pbSize =>
    exact exec_hostOp_of_ports onD (fun p => by cases p <;> rfl) rfl
  | _ => cases hf

theorem exec_host {i : Instr} (hf : i.format = .hostReq) (s : State) :
    exec i s = runHost i.code (acceptedPlan i s) s := exec_hostOp hf s

theorem acceptedPlan_of_accepted {i : Instr} {s : State} (ha : acceptedOn i s.port = true) :
    acceptedPlan i s = hostPlan i s := if_pos ha

/-- The plan accepted is the operation's, or a bare reply. -/
theorem acceptedPlan_cases (i : Instr) (s : State) :
    acceptedPlan i s = hostPlan i s ∨ ∃ r, acceptedPlan i s = Plan.answer r := by
  unfold acceptedPlan
  split
  · exact .inl rfl
  · exact .inr ⟨_, rfl⟩

/-- A host operation on a ready HOP_D that takes it. -/
theorem exec_ready_hopD {i : Instr} {s : State} (hf : i.format = .hostReq) (ha : acceptedOn i .hopD = true)
    (h : s.Ready .hopD) : exec i s = .next (settleD (hostPlan i s) s) := by
  rw [exec_host hf, acceptedPlan_of_accepted (h.1.symm ▸ ha), runHost_hopD h]

/-- Settles O7: acceptance asks first whether the port is busy. -/
theorem busyPortAcceptsNothing : Obligations.BusyPortAcceptsNothing := by
  unfold Obligations.BusyPortAcceptsNothing
  intro i s hf hb
  rw [exec_host hf, runHost, if_pos hb]

theorem idle_of_ready_hopD {s : State} (h : s.Ready .hopD) : s.seqD = .idle := by
  have := (portIsBusy_eq_false s).mp h.2.1
  simpa [h.1, State.Busy] using this

theorem idle_of_ready_hopK {s : State} (h : s.Ready .hopK) : s.seqK = .idle := by
  have := (portIsBusy_eq_false s).mp h.2.1
  simpa [h.1, State.Busy] using this

/-- A next state of a host operation: with grain `whole` the port was ready and the plan is settled on it, with grain
`event` the plan is accepted (log 1). -/
theorem exec_host_cases {i : Instr} {s t : State} (hf : i.format = .hostReq) (h : exec i s = .next t) :
    (s.Ready .hopD ∧ t = settleD (acceptedPlan i s) s) ∨ (s.Ready .hopK ∧ t = settleK (acceptedPlan i s) s) ∨
      s.grain = .event ∧ t = accept i.code (acceptedPlan i s) s := by
  rw [exec_host hf] at h
  obtain ⟨idle, ⟨hg, -⟩ | ⟨hg, rfl⟩⟩ := runHost_cases h
  · have hb := (portIsBusy_eq_false s).mpr idle
    cases hp : s.port with
    | hopD =>
      rw [runHost_hopD ⟨hp, hb, hg⟩] at h
      cases h
      exact .inl ⟨⟨hp, hb, hg⟩, rfl⟩
    | hopK =>
      rw [runHost_hopK ⟨hp, hb, hg⟩] at h
      cases h
      exact .inr (.inl ⟨⟨hp, hb, hg⟩, rfl⟩)
  · exact .inr (.inr ⟨hg, rfl⟩)

/-! ### Steps (logs 1, 2, 3) -/

theorem submit_outcome {r : Request} {s : State} {i : Instr} (h : decode r.chan.format r.bytes = .ok i) :
    (submit r s).outcome = exec i { s with port := r.chan.port } := by
  simp only [submit, h, Fetched.outcome]

theorem step_submits {s : State} {r : Request} {rs : List Request} (hg : s.grain = .whole) (hd : s.seqD = .idle)
    (hk : s.seqK = .idle) (hp : s.pending = r :: rs) : step s = (submit r { s with pending := rs }).outcome := by
  simp only [step_eq_outcome, fetch, hg, wholeStep, hd, hk, hp]

theorem step_turnD {s : State} (hg : s.grain = .event) (ht : s.turn = .hopD) :
    step s = (turnD (turnTaken s)).outcome := by
  simp only [step_eq_outcome, fetch, hg, eventStep, ht]

theorem step_turnK {s : State} (hg : s.grain = .event) (ht : s.turn = .hopK) :
    step s = (turnK (turnTaken s)).outcome := by
  simp only [step_eq_outcome, fetch, hg, eventStep, ht]

theorem turnD_takes {s : State} {r : Request} {rs : List Request} (hd : s.seqD = .idle)
    (hp : takeFor .hopD s.pending = some (r, rs)) : turnD s = submit r { s with pending := rs } := by
  simp only [turnD, hd, hp]

theorem turnK_takes {s : State} {r : Request} {rs : List Request} (hk : s.seqK = .idle)
    (hp : takeFor .hopK s.pending = some (r, rs)) : turnK s = submit r { s with pending := rs } := by
  simp only [turnK, hk, hp]

theorem turnD_moves {s : State} (hd : s.seqD ≠ .idle) : turnD s = .over (.next (advanceD s)) := by
  unfold turnD
  split
  · rfl
  · contradiction

theorem turnK_moves {s : State} (hk : s.seqK ≠ .idle) : turnK s = .over (.next (advanceK s)) := by
  unfold turnK
  split
  · rfl
  · contradiction

/-- Settles O5: each clause is the branch of `fetch` it names. -/
theorem stepRunsTheDecodedInstruction : Obligations.StepRunsTheDecodedInstruction := by
  unfold Obligations.StepRunsTheDecodedInstruction
  refine ⟨fun s r rs i hg hd hk hp hi => ?_, fun s r rs i hg ht hd hp hi => ?_, fun s r rs i hg ht hk hp hi => ?_,
    fun s hg ht hd => ?_, fun s hg ht hk => ?_⟩
  · rw [step_submits hg hd hk hp, submit_outcome hi]
  · rw [step_turnD hg ht, turnD_takes (s := turnTaken s) hd hp, submit_outcome hi]
  · rw [step_turnK hg ht, turnK_takes (s := turnTaken s) hk hp, submit_outcome hi]
  · rw [step_turnD hg ht, turnD_moves (s := turnTaken s) hd, Fetched.outcome]
  · rw [step_turnK hg ht, turnK_moves (s := turnTaken s) hk, Fetched.outcome]

end Sys2Proof.Machine

/-! ### What the moves of a port leave alone -/

namespace Sys2Proof.Machine

/-- The state with all that the moves and responses of HOP_D write blanked: what is left they never change. -/
def State.withoutD (s : State) : State :=
  { s with
    seqD := .idle, colStart := 0#16, colEnd := 0#16, rowStart := 0#16, rowEnd := 0#16, sel := true, dc := true
    rst := true, pbmNext := 0, pbmUsed := 0, pbs := [], tb := [], tbFill := 0, busScript := [], busCount := 0
    traceD := [], rspD := [] }

/-- The state with all that the moves and responses of HOP_K write blanked. -/
def State.withoutK (s : State) : State :=
  { s with
    seqK := .idle, altDown := false, ctrlDown := false, kbdScript := [], kbdCount := 0, traceK := [], rspK := [] }

theorem eq_of_withoutD {s t : State} (h : t.withoutD = s.withoutD) :
    t = { s with
      seqD := t.seqD, colStart := t.colStart, colEnd := t.colEnd, rowStart := t.rowStart, rowEnd := t.rowEnd
      sel := t.sel, dc := t.dc, rst := t.rst, pbmNext := t.pbmNext, pbmUsed := t.pbmUsed, pbs := t.pbs, tb := t.tb
      tbFill := t.tbFill, busScript := t.busScript, busCount := t.busCount, traceD := t.traceD, rspD := t.rspD } :=
  congrArg (fun u : State => { u with
      seqD := t.seqD, colStart := t.colStart, colEnd := t.colEnd, rowStart := t.rowStart, rowEnd := t.rowEnd
      sel := t.sel, dc := t.dc, rst := t.rst, pbmNext := t.pbmNext, pbmUsed := t.pbmUsed, pbs := t.pbs, tb := t.tb
      tbFill := t.tbFill, busScript := t.busScript, busCount := t.busCount, traceD := t.traceD, rspD := t.rspD }) h

theorem eq_of_withoutK {s t : State} (h : t.withoutK = s.withoutK) :
    t = { s with
      seqK := t.seqK, altDown := t.altDown, ctrlDown := t.ctrlDown, kbdScript := t.kbdScript, kbdCount := t.kbdCount
      traceK := t.traceK, rspK := t.rspK } :=
  congrArg (fun u : State => { u with
      seqK := t.seqK, altDown := t.altDown, ctrlDown := t.ctrlDown, kbdScript := t.kbdScript, kbdCount := t.kbdCount
      traceK := t.traceK, rspK := t.rspK }) h

/-! #### HOP_D -/

/-- What a move keeps whether its transaction succeeds or fails. -/
theorem perform_keeps {α : Type} {f : State → α} {a : Act} {s : State} (apply : f (a.apply s) = f s)
    (ready : f (a.ready s) = f s) (fail : ∀ bs d t, f (failed bs a.frame d t) = f t) : f (perform a s).1 = f s := by
  rcases perform_cases a s with h | ⟨bs, e, d, -, -, h⟩ <;> rw [h]
  · exact apply
  · exact (fail ..).trans ready

theorem performAll_keeps {α : Type} {f : State → α} {acts : List Act} (h : ∀ a ∈ acts, ∀ s, f (perform a s).1 = f s)
    (s : State) : f (performAll acts s).1 = f s := by
  induction acts generalizing s with
  | nil => rfl
  | cons a acts ih =>
    have ha := h a List.mem_cons_self s
    simp only [performAll]
    split
    case h_1 t hp => rw [ih (fun b hb => h b (List.mem_cons_of_mem _ hb)), ← ha, hp]
    case h_2 t r hp => rw [← ha, hp]

/-- An accepted plan ends in its response, or in that of the move that failed. -/
theorem settleD_eq (plan : Plan) (s : State) :
    settleD plan s = respondD ((performAll plan.acts s).2.getD plan.reply) (performAll plan.acts s).1 := by
  unfold settleD
  rcases performAll plan.acts s with ⟨t, _ | r⟩ <;> rfl

theorem settleD_keeps {α : Type} {f : State → α} {plan : Plan} (hr : ∀ r s, f (respondD r s) = f s)
    (h : ∀ a ∈ plan.acts, ∀ s, f (perform a s).1 = f s) (s : State) : f (settleD plan s) = f s := by
  rw [settleD_eq, hr, performAll_keeps h]

@[simp] theorem settleD_seqD (plan : Plan) (s : State) : (settleD plan s).seqD = .idle := by rw [settleD_eq]; rfl

theorem apply_withoutD (a : Act) (s : State) : (a.apply s).withoutD = s.withoutD := by
  cases a with
  | drive pin level => cases pin <;> rfl
  | cache c => cases c <;> rfl
  | _ => rfl

theorem ready_withoutD (a : Act) (s : State) : (a.ready s).withoutD = s.withoutD := by cases a <;> rfl

theorem failed_withoutD (bs : List Byte) (f : Option CacheWrite) (d : FailDraw) (s : State) :
    (failed bs f d s).withoutD = s.withoutD := by
  rw [failed_eq]
  rfl

theorem perform_withoutD (a : Act) (s : State) : (perform a s).1.withoutD = s.withoutD :=
  perform_keeps (apply_withoutD a s) (ready_withoutD a s) fun _ _ _ => failed_withoutD ..

theorem performAll_withoutD (acts : List Act) (s : State) : (performAll acts s).1.withoutD = s.withoutD :=
  performAll_keeps (fun a _ => perform_withoutD a) s

theorem settleD_withoutD (plan : Plan) (s : State) : (settleD plan s).withoutD = s.withoutD :=
  settleD_keeps (fun _ _ => rfl) (fun a _ => perform_withoutD a) s

theorem perform_rspD (a : Act) (s : State) : (perform a s).1.rspD = s.rspD :=
  perform_keeps (applyAll_rspD [a] s) (by cases a <;> rfl) fun _ _ _ => failed_rspD ..

theorem settleD_rspD (plan : Plan) (s : State) :
    (settleD plan s).rspD = s.rspD ++ [(performAll plan.acts s).2.getD plan.reply] := by
  rw [settleD_eq, respondD_rspD, performAll_keeps (f := State.rspD) fun a _ => perform_rspD a]

/-! #### One move of a busy port (R21) -/

theorem advanceD_responds {s : State} {sel : Byte} {k : Nat} {reply : Response} (h : s.seqD = .busy sel k [] reply) :
    advanceD s = respondD reply s := by
  simp only [advanceD, h]

/-- A move that is not the response: it is made, and the index rises by its events. -/
theorem advanceD_moves {s : State} {sel : Byte} {k : Nat} {a : Act} {rest : List Act} {reply : Response}
    (h : s.seqD = .busy sel k (a :: rest) reply) :
    advanceD s = { (perform a s).1 with seqD := match (perform a s).2 with
      | none => .busy sel (k + a.events) rest reply
      | some r => .busy sel (k + a.events) [] r } := by
  simp only [advanceD, h]
  rcases perform a s with ⟨t, _ | r⟩ <;> rfl

theorem advanceK_responds {s : State} {sel : Byte} {k : Nat} {reply : Response} (h : s.seqK = .busy sel k false reply) :
    advanceK s = respondK reply s := by
  simp only [advanceK, h]

theorem advanceK_polls {s : State} {sel : Byte} {k : Nat} {reply : Response} (h : s.seqK = .busy sel k true reply) :
    advanceK s = { (pollKeyboard s).1 with seqK := .busy sel (k + 1) false (pollKeyboard s).2 } := by
  simp only [advanceK, h]

/-! #### HOP_K -/

/-- A response classified leaves the state alone, or sets the latch of its key. -/
theorem classify_cases (tag key : Byte) (s : State) :
    (classify tag key s).1 = s ∨ ∃ level, (classify tag key s).1 = setLatch level key s := by
  unfold classify
  cases kbdTag tag with
  | none | invalid => exact .inl rfl
  | held => exact .inr ⟨true, rfl⟩
  | up => exact .inr ⟨false, rfl⟩
  | down =>
    simp only [keyDown]
    split
    · exact .inr ⟨true, rfl⟩
    · exact .inl rfl

theorem pollKeyboard_of_fail {s : State} {e : BusErr} (h : s.kbdAnswer = .fail e) :
    pollKeyboard s = ((kbdTransaction s).1, Response.busFailed e) := by
  simp only [pollKeyboard, kbdTransaction, h]

theorem pollKeyboard_of_bytes {s : State} {tag key : Byte} (h : s.kbdAnswer = .bytes tag key) :
    pollKeyboard s = classify tag key (kbdTransaction s).1 := by
  simp only [pollKeyboard, kbdTransaction, h]

/-- Every state a poll leaves: the transaction is recorded, and at most the latch of the answered key is set. -/
theorem pollKeyboard_cases (s : State) :
    (pollKeyboard s).1 = (kbdTransaction s).1 ∨ ∃ level tag key, s.kbdAnswer = .bytes tag key ∧
      (pollKeyboard s).1 = setLatch level key (kbdTransaction s).1 := by
  cases h : s.kbdAnswer with
  | fail e => exact .inl (by rw [pollKeyboard_of_fail h])
  | bytes tag key =>
    rw [pollKeyboard_of_bytes h]
    rcases classify_cases tag key (kbdTransaction s).1 with hc | ⟨level, hc⟩
    · exact .inl hc
    · exact .inr ⟨level, tag, key, rfl, hc⟩

/-- What a poll keeps: what its transaction and a latch keep. -/
theorem pollKeyboard_keeps {α : Type} {f : State → α} {s : State} (ht : f (kbdTransaction s).1 = f s)
    (hl : ∀ level key t, f (setLatch level key t) = f t) : f (pollKeyboard s).1 = f s := by
  rcases pollKeyboard_cases s with h | ⟨level, tag, key, -, h⟩ <;> rw [h]
  · exact ht
  · exact (hl ..).trans ht

theorem setLatch_withoutK (level : Bool) (key : Byte) (s : State) : (setLatch level key s).withoutK = s.withoutK := by
  unfold setLatch
  split
  · rfl
  · split <;> rfl

theorem pollKeyboard_withoutK (s : State) : (pollKeyboard s).1.withoutK = s.withoutK :=
  pollKeyboard_keeps rfl setLatch_withoutK

theorem advanceK_withoutK (s : State) : (advanceK s).withoutK = s.withoutK := by
  unfold advanceK
  split
  · rfl
  · rfl
  · exact pollKeyboard_withoutK s

theorem finishK_withoutK (s : State) : (finishK s).withoutK = s.withoutK := by
  unfold finishK
  split
  · rfl
  · exact advanceK_withoutK s
  · exact (advanceK_withoutK _).trans (advanceK_withoutK s)

theorem settleK_withoutK (plan : Plan) (s : State) : (settleK plan s).withoutK = s.withoutK := by
  unfold settleK
  split
  · exact pollKeyboard_withoutK s
  · rfl

end Sys2Proof.Machine

/-! ### The moves of the display side's operations -/

namespace Sys2Proof.Machine

/-- A move of the transport or of the display protocol engine: its transactions have 1 to `cap` bytes (R137), it touches
the window cache only where `caching` holds and drives `RST` only where `line` does. -/
inductive Act.OfDisplay (cap : Nat) (caching line : Prop) : Act → Prop
  | drive (pin : Pin) (level : Bool) (hline : pin = .rst → line) : OfDisplay cap caching line (.drive pin level)
  | send (b : Byte) (frame : Option CacheWrite) (hframe : frame ≠ none → caching) :
    OfDisplay cap caching line (.send b frame)
  | clearFill : OfDisplay cap caching line .clearFill
  | chunk (bs : List Byte) (frame : Option CacheWrite) (nonempty : bs ≠ []) (fits : bs.length ≤ cap)
    (hframe : frame ≠ none → caching) : OfDisplay cap caching line (.chunk bs frame)
  | wait (ms : Nat) : OfDisplay cap caching line (.wait ms)
  | cache (c : CacheWrite) (hcaching : caching) : OfDisplay cap caching line (.cache c)

section
variable {caching line : Prop}

theorem stream_ofDisplay (cfg : Params) {unit : Nat} (hu : unit = 1 ∨ unit = 2) (bytes : List Byte)
    {frame : Option CacheWrite} (hf : frame ≠ none → caching) :
    ∀ a ∈ streamActs cfg unit bytes frame, a.OfDisplay cfg.bufCap caching line := by
  intro a ha
  rcases List.mem_cons.mp ha with rfl | ha
  · exact .clearFill
  · obtain ⟨c, hc, rfl⟩ := List.mem_map.mp ha
    obtain ⟨nonempty, fits⟩ := chunks_bounds cfg unit hu bytes c hc
    exact .chunk c frame nonempty fits hf

theorem sendCommand_ofDisplay (cfg : Params) (op : Byte) (data : List Byte) {frame : Option CacheWrite}
    (hf : frame ≠ none → caching) :
    ∀ a ∈ sendCommand cfg op data frame, a.OfDisplay cfg.bufCap caching line := by
  simp only [sendCommand, List.forall_mem_append, List.forall_mem_singleton]
  refine ⟨⟨?_, stream_ofDisplay cfg (.inl rfl) data hf⟩, .drive _ _ nofun⟩
  simp only [List.forall_mem_cons]
  exact ⟨.drive _ _ nofun, .drive _ _ nofun, .send _ _ hf, .drive _ _ nofun, nofun⟩

theorem memWrite_ofDisplay (cfg : Params) (bytes : List Byte) :
    ∀ a ∈ memWriteStream cfg bytes, a.OfDisplay cfg.bufCap caching line := by
  simp only [memWriteStream, List.forall_mem_append, List.forall_mem_singleton]
  exact ⟨⟨⟨sendCommand_ofDisplay cfg _ _ nofun, .drive _ _ nofun⟩,
    stream_ofDisplay cfg (.inr rfl) bytes nofun⟩, .drive _ _ nofun⟩

/-- One axis of a window, whose frame is sent and whose pair is cached, or nothing is done (R153). -/
theorem axis_ofDisplay {p : Prop} [Decidable p] (cfg : Params) (op : Byte) (data : List Byte) (c : CacheWrite)
    (hc : caching) : ∀ a ∈ (if p then [] else sendCommand cfg op data (some c) ++ [.cache c]),
      a.OfDisplay cfg.bufCap caching line := by
  split
  · exact nofun
  · rw [List.forall_mem_append, List.forall_mem_singleton]
    exact ⟨sendCommand_ofDisplay cfg op data fun _ => hc, .cache c hc⟩

theorem window_ofDisplay (s : State) (x y w h : Int) (hc : caching) :
    ∀ a ∈ windowActs s x y w h, a.OfDisplay s.cfg.bufCap caching line :=
  List.forall_mem_append.mpr ⟨axis_ofDisplay s.cfg _ _ _ hc, axis_ofDisplay s.cfg _ _ _ hc⟩

theorem paint_ofDisplay (s : State) (x y w h : Int) (bytes : List Byte) (hc : caching) :
    ∀ a ∈ paintActs s x y w h bytes, a.OfDisplay s.cfg.bufCap caching line :=
  List.forall_mem_append.mpr ⟨window_ofDisplay s x y w h hc, memWrite_ofDisplay s.cfg bytes⟩

/-- `RESET` drives the reset line where there is one (R163). -/
theorem reset_ofDisplay (cfg : Params) (hl : cfg.hasRst = true → line) :
    ∀ a ∈ resetActs cfg, a.OfDisplay cfg.bufCap caching line := by
  unfold resetActs
  split
  case isTrue hr =>
    simp only [List.forall_mem_cons]
    exact ⟨.drive _ _ fun _ => hl hr, .wait _, .drive _ _ fun _ => hl hr, .wait _, nofun⟩
  case isFalse =>
    rw [List.forall_mem_append, List.forall_mem_singleton]
    exact ⟨sendCommand_ofDisplay cfg _ _ nofun, .wait _⟩

theorem init_ofDisplay (cfg : Params) : ∀ a ∈ initActs cfg, a.OfDisplay cfg.bufCap caching line := by
  have frame {op : Byte} {data : List Byte} : ∀ a ∈ sendCommand cfg op data none, a.OfDisplay cfg.bufCap caching line :=
    sendCommand_ofDisplay cfg _ _ nofun
  simp only [initActs, List.forall_mem_append, List.forall_mem_singleton]
  exact ⟨⟨⟨⟨⟨⟨⟨⟨⟨⟨frame, frame⟩, frame⟩, frame⟩, frame⟩, frame⟩, frame⟩, frame⟩, frame⟩,
    .wait _⟩, frame⟩

end

/-- The plan makes no move, or sets a window and streams pixels into it (R156). -/
def Plan.Paints (plan : Plan) (s : State) : Prop :=
  plan.acts = [] ∨ ∃ x y w h bytes, plan.acts = paintActs s x y w h bytes

theorem paints_run (s : State) (x y w h : Int) (bytes : List Byte) :
    (Plan.run (paintActs s x y w h bytes) []).Paints s :=
  .inr ⟨x, y, w, h, bytes, rfl⟩

theorem pixelPlan_paints (x y : Int) (c : Half) (s : State) : (pixelPlan x y c s).Paints s := by
  unfold pixelPlan
  split
  · exact .inl rfl
  · exact paints_run ..

theorem hlinePlan_paints (x0 x1 y : Int) (c : Half) (s : State) : (hlinePlan x0 x1 y c s).Paints s := by
  unfold hlinePlan
  split
  · exact .inl rfl
  · simp only
    split
    · exact .inl rfl
    · exact paints_run ..

theorem vlinePlan_paints (x y0 y1 : Int) (c : Half) (s : State) : (vlinePlan x y0 y1 c s).Paints s := by
  unfold vlinePlan
  split
  · exact .inl rfl
  · simp only
    split
    · exact .inl rfl
    · exact paints_run ..

theorem fillPlan_paints (x y w h : Int) (c : Half) (s : State) : (fillPlan x y w h c s).Paints s := by
  unfold fillPlan
  simp only
  split
  · exact .inl rfl
  · exact paints_run ..

theorem blitPlan_paints (sel : Byte) (x y : Int) (pb : Byte) (s : State) : (blitPlan sel x y pb s).Paints s := by
  unfold blitPlan
  split
  · exact .inl rfl
  · split
    · exact .inl rfl
    · split
      · exact .inl rfl
      · split
        · exact .inl rfl
        · exact paints_run ..

/-- The drawing primitives (R156 to R161). -/
def Draws (i : Instr) : Prop :=
  match i with
  | .setPixel .. | .drawHLine .. | .drawVLine .. | .fillRect .. | .blit .. => True
  | _ => False

/-- The operations that may write the window cache (R155). -/
def Caches (i : Instr) : Prop :=
  match i with
  | .setWindow .. => True
  | i => Draws i

/-- The operations that write pixel buffer memory (R210). -/
def WritesBuffers (i : Instr) : Prop :=
  match i with
  | .pbCreate .. | .pbSet .. | .pbFill .. => True
  | _ => False

theorem hostPlan_paints {i : Instr} (hd : Draws i) (s : State) : (hostPlan i s).Paints s := by
  cases i with
  | setPixel => exact pixelPlan_paints ..
  | drawHLine => exact hlinePlan_paints ..
  | drawVLine => exact vlinePlan_paints ..
  | fillRect => exact fillPlan_paints ..
  | blit => exact blitPlan_paints ..
  | _ => exact hd.elim

/-- A PBM operation whose plans make no move makes none. -/
theorem withBuffer_acts {sel pb : Byte} {s : State} {plan : PixelBuffer → Plan} (h : ∀ b, (plan b).acts = []) :
    (withBuffer sel pb s plan).acts = [] := by
  unfold withBuffer
  split
  · rfl
  · exact h _

theorem getPlan_acts (sel : Byte) (x y : Int) (b : PixelBuffer) : (getPlan sel x y b).acts = [] := by
  unfold getPlan
  split <;> rfl

theorem no_moves {P : Act → Prop} {acts : List Act} (h : acts = []) : ∀ a ∈ acts, P a := by
  rw [h]
  exact nofun

/-- Every operation but those of the PBM that write makes moves of the display side only, caching only where R155
allows, driving `RST` only in `RESET` with a reset line. -/
theorem hostPlan_ofDisplay {i : Instr} (hb : ¬ WritesBuffers i) (s : State) :
    ∀ a ∈ (hostPlan i s).acts, a.OfDisplay s.cfg.bufCap (Caches i) (i = .reset ∧ s.cfg.hasRst = true) := by
  by_cases hd : Draws i
  · have hc : Caches i := by cases i with
      | setPixel | drawHLine | drawVLine | fillRect | blit => trivial
      | _ => exact hd.elim
    rcases hostPlan_paints hd s with h | ⟨x, y, w, h, bytes, hp⟩
    · exact no_moves h
    · rw [hp]; exact paint_ofDisplay s x y w h bytes hc
  · cases i with
    | setPixel | drawHLine | drawVLine | fillRect | blit => exact (hd trivial).elim
    | pbCreate | pbSet | pbFill => exact (hb trivial).elim
    | writeByte b => exact List.forall_mem_singleton.mpr (.send b none nofun)
    | writeBytes => exact stream_ofDisplay s.cfg (.inl rfl) _ nofun
    | writeRep16 | writePackedArray => exact stream_ofDisplay s.cfg (.inr rfl) _ nofun
    | setWindow => exact window_ofDisplay s _ _ _ _ trivial
    | reset => exact reset_ofDisplay s.cfg fun h => ⟨rfl, h⟩
    | init => exact init_ofDisplay s.cfg
    | pbGet pb x y => exact no_moves (withBuffer_acts (getPlan_acts _ _ _))
    | pbSize pb => exact no_moves (withBuffer_acts fun _ => rfl)
    | _ => exact nofun

/-- The window cache (R23). -/
def State.window (s : State) : Half × Half × Half × Half := (s.colStart, s.colEnd, s.rowStart, s.rowEnd)

/-- The pixel buffer memory (R29). -/
def State.pbm (s : State) : List PixelBuffer × Nat × Nat := (s.pbs, s.pbmNext, s.pbmUsed)

section
variable {cap : Nat} {caching line : Prop} {a : Act}

/-- A move of the display side writes nothing of the PBM. -/
theorem perform_pbm (ha : a.OfDisplay cap caching line) (s : State) : (perform a s).1.pbm = s.pbm := by
  refine perform_keeps ?_ (by cases a <;> rfl) fun bs d t => by rw [failed_eq]; rfl
  cases ha with
  | drive pin => cases pin <;> rfl
  | cache c => cases c <;> rfl
  | _ => rfl

/-- A move that may not cache leaves the window cache alone, whatever the bus answers (R155). -/
theorem perform_window (ha : a.OfDisplay cap caching line) (hc : ¬ caching) (s : State) :
    (perform a s).1.window = s.window := by
  have frame : a.frame = none := by
    cases ha with
    | send _ _ hf | chunk _ _ _ _ hf => exact by_contra fun h => hc (hf h)
    | _ => rfl
  refine perform_keeps ?_ (by cases a <;> rfl) fun bs d t => by rw [frame]; rfl
  cases ha with
  | drive pin => cases pin <;> rfl
  | cache c h => exact (hc h).elim
  | _ => rfl

/-- Only a move of the reset line writes `RST`. -/
theorem perform_rst (ha : a.OfDisplay cap caching line) (hl : ¬ line) (s : State) : (perform a s).1.rst = s.rst := by
  refine perform_keeps (f := State.rst) ?_ (by cases a <;> rfl) fun bs d t => by rw [failed_eq]; rfl
  cases ha with
  | drive pin level h => cases pin with
    | rst => exact (hl (h rfl)).elim
    | sel | dc => rfl
  | cache c => cases c <;> rfl
  | _ => rfl

end

end Sys2Proof.Machine

/-! ### The invariant (R29 to R31, R57, R137) -/

namespace Sys2Proof.Machine

/-- The invariant but for the operation in progress. -/
def State.Stored (s : State) : Prop := ({ s with seqD := .idle } : State).Inv

theorem inv_iff_stored (s : State) :
    s.Inv ↔ s.Stored ∧ ∀ sel k rest reply, s.seqD = .busy sel k rest reply → s.RestOk rest where
  mp h := ⟨⟨h.tbSize, h.fillZero, h.pbWords, h.nextCounts, h.usedCounts, h.slotsBound, h.wordsBound, nofun⟩, h.restOk⟩
  mpr h := ⟨h.1.tbSize, h.1.fillZero, h.1.pbWords, h.1.nextCounts, h.1.usedCounts, h.1.slotsBound, h.1.wordsBound, h.2⟩

theorem State.Inv.stored {s : State} (h : s.Inv) : s.Stored := ((inv_iff_stored s).mp h).1

theorem State.Stored.inv_of_idle {s : State} (h : s.Stored) (hq : s.seqD = .idle) : s.Inv :=
  (inv_iff_stored s).mpr ⟨h, fun _ _ _ _ hb => nomatch hq.symm.trans hb⟩

theorem State.Stored.inv_of_busy {s : State} {sel : Byte} {k : Nat} {rest : List Act} {reply : Response} (h : s.Stored)
    (hr : s.RestOk rest) : ({ s with seqD := .busy sel k rest reply } : State).Inv :=
  (inv_iff_stored _).mpr ⟨h, fun _ _ _ _ hb => by cases hb; exact hr⟩

/-- What HOP_K's moves write is no part of the invariant. -/
theorem State.Inv.of_withoutK {s t : State} (hs : s.Inv) (h : t.withoutK = s.withoutK) : t.Inv := by
  rw [eq_of_withoutK h]
  exact ⟨hs.tbSize, hs.fillZero, hs.pbWords, hs.nextCounts, hs.usedCounts, hs.slotsBound, hs.wordsBound, hs.restOk⟩

/-- A state with the same parameters and PBM, a TB of the same size and `TB_FILL = 0`. -/
theorem State.Stored.of_pbm {s t : State} (hs : s.Stored) (hp : t.pbm = s.pbm) (hc : t.cfg = s.cfg)
    (ht : Memory.wf s.cfg.bufCap t.tb) (hf : t.tbFill = 0) : t.Stored := by
  obtain ⟨hb, hn, hu⟩ : t.pbs = s.pbs ∧ t.pbmNext = s.pbmNext ∧ t.pbmUsed = s.pbmUsed := by simpa [State.pbm] using hp
  refine ⟨hc ▸ ht, hf, ?_, ?_, ?_, ?_, ?_, nofun⟩
  · exact hb ▸ hs.pbWords
  · exact (hn.trans hs.nextCounts).trans (hb ▸ rfl)
  · exact (hu.trans hs.usedCounts).trans (hb ▸ rfl)
  · exact hn.trans_le (hc ▸ hs.slotsBound)
  · exact hu.trans_le (hc ▸ hs.wordsBound)

/-- What a list's rewritten element keeps, the list keeps. -/
theorem map_modify {α β : Type} {g : α → β} {f : α → α} (h : ∀ a, g (f a) = g a) (l : List α) (i : Nat) :
    (l.modify i f).map g = l.map g := by
  induction l generalizing i with
  | nil => cases i <;> rfl
  | cons a l ih => cases i <;> simp [h, ih]

/-- Rewriting the words of one record keeps the invariant, where their number is kept. -/
theorem State.Stored.modify {s : State} (hs : s.Stored) {f : PixelBuffer → PixelBuffer}
    (hf : ∀ b : PixelBuffer, b.SameSize (f b)) (i : Nat) : ({ s with pbs := s.pbs.modify i f } : State).Stored := by
  have words (b : PixelBuffer) : (f b).words = b.words := by
    obtain ⟨hw, hh, -⟩ := hf b
    simp only [PixelBuffer.words, hw, hh]
  have sizes := map_modify (g := fun b : PixelBuffer => (b.data.length, b.words))
    (fun b => Prod.ext (hf b).2.2 (words b)) s.pbs i
  refine ⟨hs.tbSize, hs.fillZero, ?_, ?_, ?_, hs.slotsBound, hs.wordsBound, nofun⟩
  · have key : ∀ p ∈ s.pbs.map (fun b : PixelBuffer => (b.data.length, b.words)), p.1 = p.2 :=
      List.forall_mem_map.mpr hs.pbWords
    exact List.forall_mem_map.mp (sizes ▸ key)
  · exact hs.nextCounts.trans (List.length_modify ..).symm
  · exact hs.usedCounts.trans (congrArg List.sum (map_modify words s.pbs i)).symm

/-- A creation that was checked (R211). -/
theorem pbNewOp_stored {s : State} (hs : s.Stored) {w h : Half} (hslot : s.pbmNext < s.cfg.pbmSlots)
    (hwords : s.pbmUsed + u16 w * u16 h ≤ s.cfg.pbmWords) : (pbNewOp w h s).Stored := by
  refine ⟨hs.tbSize, hs.fillZero, ?_, ?_, ?_, hslot, hwords, nofun⟩
  · exact List.forall_mem_append.mpr ⟨hs.pbWords, List.forall_mem_singleton.mpr List.length_replicate⟩
  · have next : s.pbmNext = s.pbs.length := hs.nextCounts
    simp [next]
  · have used : s.pbmUsed = (s.pbs.map PixelBuffer.words).sum := hs.usedCounts
    simp [used, PixelBuffer.words]

/-- A move that makes no record keeps what is stored, whether its transaction succeeds or fails. -/
theorem perform_stored {s : State} (hs : s.Stored) {a : Act} (ha : a.fits s.cfg.bufCap) : (perform a s).1.Stored := by
  have staged : Memory.wf s.cfg.bufCap (a.ready s).tb := by
    cases a with
    | chunk bs f => exact overlay_wf hs.tbSize ha.2
    | _ => exact hs.tbSize
  rcases perform_cases a s with h | ⟨bs, e, d, -, -, h⟩ <;> rw [h]
  · cases a with
    | drive pin level => cases pin <;> exact hs.of_pbm rfl rfl hs.tbSize hs.fillZero
    | cache c => cases c <;> exact hs.of_pbm rfl rfl hs.tbSize hs.fillZero
    | wait => exact hs.of_pbm rfl rfl hs.tbSize hs.fillZero
    | send | clearFill => exact hs.of_pbm rfl rfl hs.tbSize rfl
    | chunk => exact hs.of_pbm rfl rfl staged rfl
    | pbNew => exact ha.elim
    | pbWrite pb i c =>
      exact hs.modify (f := fun b => { b with data := b.data.set i c }) (fun _ => ⟨rfl, rfl, List.length_set⟩) pb.toNat
    | pbFillAll pb c =>
      exact hs.modify (f := fun b => { b with data := b.data.map fun _ => c })
        (fun _ => ⟨rfl, rfl, List.length_map _⟩) pb.toNat
  · rw [failed_eq]
    have ready : (a.ready s).pbm = s.pbm ∧ (a.ready s).cfg = s.cfg := by cases a <;> exact ⟨rfl, rfl⟩
    exact hs.of_pbm ready.1 ready.2 staged rfl

theorem respondD_stored (r : Response) {s : State} (hs : s.Stored) : (respondD r s).Stored :=
  hs.of_pbm rfl rfl hs.tbSize hs.fillZero

theorem restOk_nil (s : State) : s.RestOk [] := .inl nofun

theorem perform_cfg (a : Act) (s : State) : (perform a s).1.cfg = s.cfg := (perform_grows a s).cfg

/-- The moves left after one was made may be made after it. -/
theorem restOk_tail {s t : State} {a : Act} {rest : List Act} (hr : s.RestOk (a :: rest)) (hc : t.cfg = s.cfg) :
    t.RestOk rest := by
  rcases hr with fits | ⟨w, h, hnew, -⟩
  · exact .inl fun b hb => hc ▸ fits b (List.mem_cons_of_mem _ hb)
  · cases hnew
    exact restOk_nil t

theorem perform_stored_of_restOk {s : State} (hs : s.Stored) {a : Act} {rest : List Act} (hr : s.RestOk (a :: rest)) :
    (perform a s).1.Stored := by
  rcases hr with fits | ⟨w, h, hnew, hslot, hwords⟩
  · exact perform_stored hs (fits a List.mem_cons_self)
  · cases hnew
    exact pbNewOp_stored hs hslot hwords

theorem advanceD_inv {s : State} (hs : s.Inv) : (advanceD s).Inv := by
  cases hq : s.seqD with
  | idle => simpa only [advanceD, hq] using hs
  | busy sel k rest reply =>
    cases rest with
    | nil =>
      rw [advanceD_responds hq]
      exact (respondD_stored reply hs.stored).inv_of_idle rfl
    | cons a rest =>
      have hr := hs.restOk _ _ _ _ hq
      have stored := perform_stored_of_restOk hs.stored hr
      rw [advanceD_moves hq]
      split
      · exact stored.inv_of_busy (restOk_tail hr (perform_cfg a s))
      · exact stored.inv_of_busy (restOk_nil _)

theorem advancesD_inv (n : Nat) {s : State} (hs : s.Inv) : (advancesD n s).Inv := by
  induction n generalizing s with
  | zero => exact hs
  | succ n ih => exact ih (advanceD_inv hs)

theorem finishD_inv {s : State} (hs : s.Inv) : (finishD s).Inv := by
  unfold finishD
  split
  · exact hs
  · exact advancesD_inv _ hs

theorem finish_inv {s : State} (hs : s.Inv) : (finish s).Inv := by
  unfold finish
  split
  · exact finishD_inv hs
  · exact hs.of_withoutK (finishK_withoutK s)

theorem accept_inv {sel : Byte} {plan : Plan} {s : State} (hs : s.Inv) (hr : s.RestOk plan.acts) :
    (accept sel plan s).Inv := by
  unfold accept
  split
  · exact hs.stored.inv_of_busy hr
  · exact hs.of_withoutK rfl

theorem runHost_inv {sel : Byte} {plan : Plan} {s t : State} (hs : s.Inv) (hr : s.RestOk plan.acts)
    (h : runHost sel plan s = .next t) : t.Inv := by
  obtain ⟨-, ⟨-, rfl⟩ | ⟨-, rfl⟩⟩ := runHost_cases h
  · exact finish_inv (accept_inv hs hr)
  · exact accept_inv hs hr

theorem ofDisplay_fits {cap : Nat} {caching line : Prop} {a : Act} (ha : a.OfDisplay cap caching line) :
    a.fits cap := by
  cases ha with
  | chunk _ _ nonempty fits => exact ⟨nonempty, fits⟩
  | _ => trivial

/-- A creation is checked against the slots and the words left (R57, R211). -/
theorem createPlan_restOk (w h : Half) (s : State) : s.RestOk (createPlan w h s).acts := by
  unfold createPlan
  split
  case isTrue => exact restOk_nil s
  case isFalse hfree => exact .inr ⟨w, h, rfl, by omega, by omega⟩

/-- The one move a PBM write makes, if it makes one, makes no record. -/
theorem withBuffer_fits {sel pb : Byte} {s : State} {plan : PixelBuffer → Plan} {cap : Nat}
    (h : ∀ b, ∀ a ∈ (plan b).acts, a.fits cap) : ∀ a ∈ (withBuffer sel pb s plan).acts, a.fits cap := by
  unfold withBuffer
  split
  · exact nofun
  · exact h _

theorem setPlan_fits (pb : Byte) (x y : Int) (c : Half) (b : PixelBuffer) (cap : Nat) :
    ∀ a ∈ (setPlan pb x y c b).acts, a.fits cap := by
  unfold setPlan
  split
  · exact nofun
  · exact List.forall_mem_singleton.mpr trivial

theorem hostPlan_restOk (i : Instr) (s : State) : s.RestOk (hostPlan i s).acts := by
  by_cases hw : WritesBuffers i
  · cases i with
    | pbCreate w h => exact createPlan_restOk w h s
    | pbSet => exact .inl (withBuffer_fits fun b => setPlan_fits _ _ _ _ b _)
    | pbFill => exact .inl (withBuffer_fits fun _ => List.forall_mem_singleton.mpr trivial)
    | _ => exact hw.elim
  · exact .inl fun a ha => ofDisplay_fits (hostPlan_ofDisplay hw s a ha)

theorem acceptedPlan_restOk (i : Instr) (s : State) : s.RestOk (acceptedPlan i s).acts := by
  rcases acceptedPlan_cases i s with h | ⟨r, h⟩ <;> rw [h]
  · exact hostPlan_restOk i s
  · exact restOk_nil s

/-- A row run on the bench leaves what the invariant is about alone (log 4). -/
theorem runInner_inv {row : State → State × Response} {s t : State} (hs : s.Inv) (h : runInner row s = .next t) :
    t.Inv := by
  cases h
  exact ⟨hs.tbSize, hs.fillZero, hs.pbWords, hs.nextCounts, hs.usedCounts, hs.slotsBound, hs.wordsBound, hs.restOk⟩

theorem exec_inv {i : Instr} {s t : State} (hs : s.Inv) (h : exec i s = .next t) : t.Inv := by
  rcases exec_shape i s with ⟨hf, -⟩ | ⟨-, acts, he⟩ | ⟨-, row, he⟩
  · exact runHost_inv hs (acceptedPlan_restOk i s) (exec_host hf s ▸ h)
  · exact runInner_inv hs (he ▸ h)
  · exact runInner_inv hs (he ▸ h)

/-- Which request stands where, and whose turn it is, is no part of the invariant. -/
theorem State.Inv.of_scheduling {s : State} (hs : s.Inv) (p : Port) (rs : List Request) (ts : List Port) (n : Nat) :
    ({ s with port := p, pending := rs, turnScript := ts, turnCount := n } : State).Inv :=
  ⟨hs.tbSize, hs.fillZero, hs.pbWords, hs.nextCounts, hs.usedCounts, hs.slotsBound, hs.wordsBound, hs.restOk⟩

theorem submit_inv {r : Request} {s t : State} (hs : s.Inv) (h : (submit r s).outcome = .next t) : t.Inv := by
  have hp : ({ s with port := r.chan.port } : State).Inv := hs.of_scheduling _ _ _ _
  rcases submit_cases h with ⟨i, -, hi⟩ | ⟨sel, -, -, hr⟩
  · exact exec_inv hp hi
  · exact runHost_inv hp (restOk_nil _) hr

theorem advances_inv (p : Port) (n : Nat) {s : State} (hs : s.Inv) : (advances p n s).Inv := by
  induction n generalizing s with
  | zero => exact hs
  | succ n ih =>
    cases p with
    | hopD => exact ih (advanceD_inv hs)
    | hopK => exact ih (hs.of_withoutK (advanceK_withoutK s))

theorem step_inv {s t : State} (hs : s.Inv) (h : step s = .next t) : t.Inv := by
  have turn : (turnTaken s).Inv := hs.of_scheduling _ _ _ _
  cases step_cases h with
  | finishesD _ _ next => exact next ▸ finishD_inv hs
  | finishesK _ _ _ next => exact next ▸ hs.of_withoutK (finishK_withoutK s)
  | waits _ _ _ _ next => exact next ▸ hs
  | submits r rs _ _ _ _ next => exact submit_inv (hs.of_scheduling _ rs _ _) next
  | moves _ _ next => exact next ▸ advances_inv _ 1 turn
  | passes _ _ _ next => exact next ▸ turn
  | takes r rs _ _ _ next => exact submit_inv (turn.of_scheduling _ rs _ _) next

/-- Settles O10: a move made keeps what is stored and leaves moves that may still be made, an accepted plan consists of
such moves, and `step_cases` says that a step is made of these. -/
theorem everyStepKeepsInvariant : Obligations.EveryStepKeepsInvariant := by
  unfold Obligations.EveryStepKeepsInvariant
  exact fun _ _ => step_inv

/-- Settles O9: nothing is stored yet, and TB has `BUF_CAP` bytes. -/
theorem resetMeetsInvariant : Obligations.ResetMeetsInvariant := by
  unfold Obligations.ResetMeetsInvariant
  exact ⟨reset_tb_wf, rfl, nofun, rfl, rfl, Nat.zero_le _, Nat.zero_le _, nofun⟩

/-- Settles O8: the fields of `State.reset`. -/
theorem resetState : Obligations.ResetState := by
  unfold Obligations.ResetState
  exact ⟨rfl, rfl, rfl, rfl, rfl, rfl, rfl, rfl, rfl, rfl, rfl, rfl, reset_tb_wf, rfl, rfl, rfl⟩

end Sys2Proof.Machine

/-! ### An operation and its moves (R21, R63) -/

namespace Sys2Proof.Machine

/-! #### The event index -/

theorem shown_of_payload {a : Act} {bs : List Byte} (h : a.payload = some bs) : a.shown = [.xfer bs] := by
  cases a <;> cases h <;> rfl

/-- A move records its events whether its transaction succeeds or fails. -/
theorem perform_traceD (a : Act) (s : State) : (perform a s).1.traceD = s.traceD ++ a.shown := by
  rcases perform_cases a s with h | ⟨bs, e, d, hp, -, h⟩ <;> rw [h]
  · exact apply_traceD a s
  · rw [failed_traceD, shown_of_payload hp]
    cases a <;> rfl

theorem shown_length (a : Act) : a.shown.length = a.events := by cases a <;> rfl

/-- A poll records one transaction and gives no response yet. -/
theorem pollKeyboard_traces (s : State) : (pollKeyboard s).1.rspK = s.rspK ∧
    (pollKeyboard s).1.traceK = s.traceK ++ [.i2c s.cfg.kbdAddr [Config.kbdReq] Config.kbdRspLength] := by
  rcases pollKeyboard_cases s with h | ⟨level, tag, key, -, h⟩ <;> rw [h]
  · exact ⟨rfl, rfl⟩
  · exact ⟨setLatch_rspK .., setLatch_traceK ..⟩

/-- Settles O54: a move's index and trace rise by the same events. -/
theorem eachEventAdvancesTheIndex : Obligations.EachEventAdvancesTheIndex := by
  unfold Obligations.EachEventAdvancesTheIndex
  refine ⟨fun s sel k a rest reply h => ?_, fun s sel k reply h => ?_, fun s sel k reply h => ?_,
    fun s sel k reply h => ?_⟩
  · rw [advanceD_moves h]
    cases hr : (perform a s).2 with
    | none => exact ⟨a.shown, rest, reply, perform_traceD a s, perform_rspD a s, by rw [shown_length]⟩
    | some r => exact ⟨a.shown, [], r, perform_traceD a s, perform_rspD a s, by rw [shown_length]⟩
  · rw [advanceD_responds h]
    exact ⟨rfl, rfl, rfl⟩
  · rw [advanceK_polls h]
    exact ⟨_, _, (pollKeyboard_traces s).2, (pollKeyboard_traces s).1, rfl⟩
  · rw [advanceK_responds h]
    exact ⟨rfl, rfl, rfl⟩

/-! #### The grain is neither read nor written by a move -/

/-- The same state in another grain (log 1). -/
def State.atGrain (g : Grain) (s : State) : State := { s with grain := g }

theorem apply_atGrain (g : Grain) (a : Act) (s : State) : a.apply (s.atGrain g) = (a.apply s).atGrain g := by
  cases a with
  | drive pin level => cases pin <;> rfl
  | cache c => cases c <;> rfl
  | _ => rfl

theorem ready_atGrain (g : Grain) (a : Act) (s : State) : a.ready (s.atGrain g) = (a.ready s).atGrain g := by
  cases a <;> rfl

theorem failed_atGrain (g : Grain) (bs : List Byte) (f : Option CacheWrite) (d : FailDraw) (s : State) :
    failed bs f d (s.atGrain g) = (failed bs f d s).atGrain g := by
  unfold failed drawAfterFail
  cases f with
  | none => rfl
  | some c => cases d.cacheNew <;> cases c <;> rfl

theorem perform_atGrain (g : Grain) (a : Act) (s : State) :
    perform a (s.atGrain g) = ((perform a s).1.atGrain g, (perform a s).2) := by
  have hb : (s.atGrain g).busAnswer = s.busAnswer := rfl
  cases hp : a.payload with
  | none => rw [perform_quiet hp, perform_quiet hp, apply_atGrain]
  | some bs =>
    cases ha : s.busAnswer with
    | ok => rw [perform_ok (hb.trans ha), perform_ok ha, apply_atGrain]
    | fail e d => rw [perform_fail hp (hb.trans ha), perform_fail hp ha, ready_atGrain, failed_atGrain]

theorem advanceD_atGrain (g : Grain) (s : State) : advanceD (s.atGrain g) = (advanceD s).atGrain g := by
  have hs : (s.atGrain g).seqD = s.seqD := rfl
  cases hq : s.seqD with
  | idle => simp only [advanceD, hs, hq]
  | busy sel k rest reply =>
    cases rest with
    | nil => rw [advanceD_responds hq, advanceD_responds (hs.trans hq)]; rfl
    | cons a rest => rw [advanceD_moves hq, advanceD_moves (hs.trans hq), perform_atGrain]; rfl

theorem setLatch_atGrain (g : Grain) (level : Bool) (key : Byte) (s : State) :
    setLatch level key (s.atGrain g) = (setLatch level key s).atGrain g := by
  have hc : (s.atGrain g).cfg = s.cfg := rfl
  unfold setLatch
  rw [hc]
  split
  · rfl
  · split <;> rfl

theorem classify_atGrain (g : Grain) (tag key : Byte) (s : State) :
    classify tag key (s.atGrain g) = ((classify tag key s).1.atGrain g, (classify tag key s).2) := by
  have hm : (s.atGrain g).isModifier key = s.isModifier key := rfl
  unfold classify
  cases kbdTag tag with
  | none | invalid => rfl
  | held | up => exact Prod.ext (setLatch_atGrain ..) rfl
  | down =>
    simp only [keyDown, hm]
    split
    · exact Prod.ext (setLatch_atGrain ..) rfl
    · rfl

theorem pollKeyboard_atGrain (g : Grain) (s : State) :
    pollKeyboard (s.atGrain g) = ((pollKeyboard s).1.atGrain g, (pollKeyboard s).2) := by
  have hk : (s.atGrain g).kbdAnswer = s.kbdAnswer := rfl
  cases ha : s.kbdAnswer with
  | fail e => rw [pollKeyboard_of_fail ha, pollKeyboard_of_fail (hk.trans ha)]; rfl
  | bytes tag key =>
    rw [pollKeyboard_of_bytes ha, pollKeyboard_of_bytes (hk.trans ha)]
    exact classify_atGrain g tag key (kbdTransaction s).1

theorem advanceK_atGrain (g : Grain) (s : State) : advanceK (s.atGrain g) = (advanceK s).atGrain g := by
  have hs : (s.atGrain g).seqK = s.seqK := rfl
  cases hq : s.seqK with
  | idle => simp only [advanceK, hs, hq]
  | busy sel k poll reply =>
    cases poll with
    | false => rw [advanceK_responds hq, advanceK_responds (hs.trans hq)]; rfl
    | true => rw [advanceK_polls hq, advanceK_polls (hs.trans hq), pollKeyboard_atGrain]; rfl

theorem advances_atGrain (g : Grain) (p : Port) (n : Nat) (s : State) :
    advances p n (s.atGrain g) = (advances p n s).atGrain g := by
  induction n generalizing s with
  | zero => rfl
  | succ n ih =>
    cases p with
    | hopD => simp only [advances, advanceD_atGrain, ih]
    | hopK => simp only [advances, advanceK_atGrain, ih]

theorem acceptedPlan_atGrain (g : Grain) (i : Instr) (s : State) : acceptedPlan i (s.atGrain g) = acceptedPlan i s := by
  have hp : hostPlan i (s.atGrain g) = hostPlan i s := by cases i <;> rfl
  unfold acceptedPlan
  rw [hp]
  rfl

/-! #### The moves of an operation, one by one -/

theorem advances_hopD (n : Nat) (s : State) : advances .hopD n s = advancesD n s := by
  induction n generalizing s with
  | zero => rfl
  | succ n ih => exact ih _

theorem advances_busyD (plan : Plan) (sel : Byte) (s : State) :
    advances .hopD (plan.acts.length + 1) { s with seqD := .busy sel 0 plan.acts plan.reply } = settleD plan s :=
  (advances_hopD ..).trans (advancesD_busy ..)

theorem advances_busyK (plan : Plan) (sel : Byte) (s : State) :
    advances .hopK (if plan.poll then 2 else 1) { s with seqK := .busy sel 0 plan.poll plan.reply } =
      settleK plan s := by
  rw [show settleK plan s = settleK ⟨[], plan.poll, plan.reply⟩ s from rfl, ← finishK_busy s sel 0]
  cases plan.poll <;> rfl

theorem runHost_event {sel : Byte} {plan : Plan} {s : State} (hb : s.portIsBusy = false) (hg : s.grain = .event) :
    runHost sel plan s = .next (accept sel plan s) := by
  simp only [runHost, hb, hg, Bool.false_eq_true, if_false]

/-- Settles O53: a plan accepted is settled by its moves, and no move depends on the grain. -/
theorem wholeOperationIsItsMoves : Obligations.WholeOperationIsItsMoves := by
  unfold Obligations.WholeOperationIsItsMoves
  intro i s p hf hr
  have event : exec i (s.atGrain .event) = .next (accept i.code (acceptedPlan i s) (s.atGrain .event)) := by
    rw [exec_host hf, acceptedPlan_atGrain]
    exact runHost_event hr.2.1 rfl
  cases p with
  | hopD =>
    have accepted : accept i.code (acceptedPlan i s) (s.atGrain .event) =
        State.atGrain .event { s with seqD := .busy i.code 0 (acceptedPlan i s).acts (acceptedPlan i s).reply } :=
      accept_hopD hr.1
    refine ⟨settleD (acceptedPlan i s) s, _, (acceptedPlan i s).acts.length + 1, ?_, event, fun _ => ⟨_, _, accepted⟩,
      nofun, ?_⟩
    · rw [exec_host hf, runHost_hopD hr]
    · rw [accepted, advances_atGrain, advances_busyD, State.atGrain]
  | hopK =>
    have accepted : accept i.code (acceptedPlan i s) (s.atGrain .event) =
        State.atGrain .event { s with seqK := .busy i.code 0 (acceptedPlan i s).poll (acceptedPlan i s).reply } :=
      accept_hopK hr.1
    refine ⟨settleK (acceptedPlan i s) s, _, if (acceptedPlan i s).poll then 2 else 1, ?_, event, nofun,
      fun _ => ⟨_, _, accepted⟩, ?_⟩
    · rw [exec_host hf, runHost_hopK hr]
    · rw [accepted, advances_atGrain, advances_busyK, State.atGrain]

end Sys2Proof.Machine

/-! ### Frames: what an operation leaves unchanged (R36) -/

namespace Sys2Proof.Machine

/-! #### The pure operations -/

/-- The operations that only reply (R36). -/
def OnlyReplies (i : Instr) : Prop :=
  match i with
  | .toPacked .. | .makePacked .. | .size | .kbdLatch | .pbGet .. | .pbSize .. => True
  | _ => False

theorem withBuffer_answer {sel pb : Byte} {s : State} {plan : PixelBuffer → Plan}
    (h : ∀ b, ∃ r, plan b = Plan.answer r) : ∃ r, withBuffer sel pb s plan = Plan.answer r := by
  unfold withBuffer
  split
  · exact ⟨_, rfl⟩
  · exact h _

theorem getPlan_answer (sel : Byte) (x y : Int) (b : PixelBuffer) : ∃ r, getPlan sel x y b = Plan.answer r := by
  unfold getPlan
  split <;> exact ⟨_, rfl⟩

theorem hostPlan_answer {i : Instr} (hi : OnlyReplies i) (s : State) : ∃ r, hostPlan i s = Plan.answer r := by
  cases i with
  | toPacked | makePacked | size | kbdLatch => exact ⟨_, rfl⟩
  | pbGet => exact withBuffer_answer fun b => getPlan_answer _ _ _ b
  | pbSize => exact withBuffer_answer fun _ => ⟨_, rfl⟩
  | _ => exact hi.elim

/-- Settles O55: such an operation's plan is a bare reply, on either port, also where it is misrouted. -/
theorem pureOperationsOnlyReply : Obligations.PureOperationsOnlyReply := by
  unfold Obligations.PureOperationsOnlyReply
  intro i s t p hr h hi
  obtain ⟨hf, pure⟩ : i.format = .hostReq ∧ OnlyReplies i := by
    rcases hi with ⟨r, g, b, a, rfl⟩ | ⟨r, g, b, rfl⟩ | rfl | rfl | ⟨pb, x, y, rfl⟩ | ⟨pb, rfl⟩ <;>
      exact ⟨rfl, trivial⟩
  obtain ⟨r, hp⟩ : ∃ r, acceptedPlan i s = Plan.answer r := by
    rcases acceptedPlan_cases i s with ha | ha
    · exact ha ▸ hostPlan_answer pure s
    · exact ha
  rw [exec_host hf, hp, runHost_answer hr] at h
  cases h
  exact ⟨r, rfl⟩

/-! #### The PBM -/

/-- A plan of one move that makes no transaction. -/
theorem settleD_single {a : Act} (h : a.payload = none) (results : List Byte) (s : State) :
    settleD (Plan.run [a] results) s = respondD (Response.done results) (a.apply s) := by
  simp only [settleD, Plan.run, performAll, perform_quiet h]

theorem pbCreate_settles (w h : Half) (s : State) :
    ∃ r u, settleD (hostPlan (.pbCreate w h) s) s = respondD r u ∧ (u = s ∨ u = pbNewOp w h s) := by
  unfold hostPlan createPlan
  simp only
  split
  · exact ⟨_, s, settleD_answer .., .inl rfl⟩
  · exact ⟨_, _, settleD_single rfl _ s, .inr rfl⟩

theorem pbSet_settles (pb : Byte) (x y c : Half) (s : State) :
    ∃ r u, settleD (hostPlan (.pbSet pb x y c) s) s = respondD r u ∧ (u = s ∨ ∃ b j, s.pixelBuffer pb = some b ∧
      b.index? x.toInt y.toInt = some j ∧ u = pbWriteOp pb j c s) := by
  unfold hostPlan withBuffer
  simp only
  split
  · exact ⟨_, s, settleD_answer .., .inl rfl⟩
  case h_2 b hb =>
    unfold setPlan
    split
    · exact ⟨_, s, settleD_answer .., .inl rfl⟩
    case h_2 j hj => exact ⟨_, _, settleD_single rfl _ s, .inr ⟨b, j, hb, hj, rfl⟩⟩

theorem pbFill_settles (pb : Byte) (c : Half) (s : State) :
    ∃ r u, settleD (hostPlan (.pbFill pb c) s) s = respondD r u ∧ (u = s ∨ u = pbFillOp pb c s) := by
  unfold hostPlan withBuffer
  simp only
  split
  · exact ⟨_, s, settleD_answer .., .inl rfl⟩
  · exact ⟨_, _, settleD_single rfl _ s, .inr rfl⟩

/-- An operation of the PBM that writes replies, having changed at most the pixel buffer memory. -/
theorem pbm_settles {i : Instr} (hw : WritesBuffers i) (s : State) :
    ∃ r u, settleD (hostPlan i s) s = respondD r u ∧
      u = { s with pbs := u.pbs, pbmNext := u.pbmNext, pbmUsed := u.pbmUsed } := by
  cases i with
  | pbCreate w h =>
    obtain ⟨r, u, hs, rfl | rfl⟩ := pbCreate_settles w h s <;> exact ⟨r, _, hs, rfl⟩
  | pbSet pb x y c =>
    obtain ⟨r, u, hs, rfl | ⟨b, j, -, -, rfl⟩⟩ := pbSet_settles pb x y c s <;> exact ⟨r, _, hs, rfl⟩
  | pbFill pb c =>
    obtain ⟨r, u, hs, rfl | rfl⟩ := pbFill_settles pb c s <;> exact ⟨r, _, hs, rfl⟩
  | _ => exact hw.elim

theorem respondD_of_idle {s : State} (hq : s.seqD = .idle) (r : Response) :
    respondD r s = { s with rspD := s.rspD ++ [r] } := by
  rw [respondD, ← hq]

theorem pbWord_congr {s t : State} {k : Nat} (h : t.pbs[k]? = s.pbs[k]?) (j : Nat) : t.pbWord k j = s.pbWord k j := by
  rw [State.pbWord, h, State.pbWord]

/-- `MemWrite` changes no other word (R56). -/
theorem pbWriteOp_pbWord {pb : Byte} {i k j : Nat} (h : k = pb.toNat → j ≠ i) (c : Half) (s : State) :
    (pbWriteOp pb i c s).pbWord k j = s.pbWord k j := by
  by_cases hk : pb.toNat = k
  · have hj := (h hk.symm).symm
    unfold State.pbWord pbWriteOp
    simp only [hk, List.getElem?_modify_eq]
    cases s.pbs[k]? with
    | none => rfl
    | some b => exact List.getElem?_set_ne hj
  · exact pbWord_congr (List.getElem?_modify_ne _ _ hk) j

/-- Settles O58: each operation replies having made at most its one write. -/
theorem pixelBufferFrame : Obligations.PixelBufferFrame := by
  unfold Obligations.PixelBufferFrame
  intro i s t hr h hi
  obtain ⟨hf, ha, hw⟩ : i.format = .hostReq ∧ acceptedOn i .hopD = true ∧ WritesBuffers i := by
    rcases hi with ⟨w, h, rfl⟩ | ⟨pb, x, y, c, rfl⟩ | ⟨pb, c, rfl⟩ <;> exact ⟨rfl, rfl, trivial⟩
  rw [exec_ready_hopD hf ha hr] at h
  cases h
  refine ⟨?_, ⟨_, settleD_rspD ..⟩, ?_, ?_, ?_⟩
  · obtain ⟨r, u, hs, hu⟩ := pbm_settles hw s
    have hq : u.seqD = .idle := hu ▸ idle_of_ready_hopD hr
    rw [hs, respondD_of_idle hq, hu]
  · rintro w h rfl k hk
    obtain ⟨r, u, hs, rfl | rfl⟩ := pbCreate_settles w h s <;> rw [hs]
    · rfl
    · exact List.getElem?_append_left hk
  · rintro pb x y c rfl
    obtain ⟨r, u, hs, rfl | ⟨b, i, hb, hi, rfl⟩⟩ := pbSet_settles pb x y c s <;> rw [hs]
    · exact ⟨rfl, rfl, fun _ _ _ => rfl⟩
    · refine ⟨rfl, rfl, fun k j hj => pbWriteOp_pbWord (fun hk hji => ?_) c s⟩
      exact hj b hb (hji ▸ hi) hk
  · rintro pb c rfl
    obtain ⟨r, u, hs, rfl | rfl⟩ := pbFill_settles pb c s <;> rw [hs]
    · exact ⟨rfl, rfl, fun _ _ _ => rfl⟩
    · exact ⟨rfl, rfl, fun k j hk => pbWord_congr (List.getElem?_modify_ne _ _ (Ne.symm hk)) j⟩

/-! #### The keyboard -/

/-- The latches (R27). -/
def State.latches (s : State) : Bool × Bool := (s.altDown, s.ctrlDown)

/-- On HOP_K every operation but `KBD_POLL` only replies. -/
theorem acceptedPlan_hopK {i : Instr} {s : State} (hp : s.port = .hopK) (hi : i ≠ .kbdPoll) :
    ∃ r, acceptedPlan i s = Plan.answer r := by
  unfold acceptedPlan
  rw [hp]
  cases i with
  | kbdPoll => exact (hi rfl).elim
  | _ => exact ⟨_, rfl⟩

theorem exec_latches {i : Instr} {s t : State} (hi : i ≠ .kbdPoll) (h : exec i s = .next t) :
    t.latches = s.latches := by
  rcases exec_shape i s with ⟨hf, -⟩ | ⟨-, acts, he⟩ | ⟨-, row, he⟩
  · rcases exec_host_cases hf h with ⟨-, rfl⟩ | ⟨⟨hp, -⟩, rfl⟩ | ⟨-, rfl⟩
    · exact (congrArg State.latches (settleD_withoutD (acceptedPlan i s) s) :)
    · obtain ⟨r, ha⟩ := acceptedPlan_hopK hp hi
      rw [ha]
      rfl
    · unfold accept
      split <;> rfl
  · cases he ▸ h
    rfl
  · cases he ▸ h
    rfl

theorem setLatch_altDown_of_ne {key : Byte} (h : key ≠ Config.keyAlt) (level : Bool) (s : State) :
    (setLatch level key s).altDown = s.altDown := by
  unfold setLatch
  rw [if_neg h]
  split <;> rfl

theorem setLatch_ctrlDown_of_ne {key : Byte} {s : State} (h : key ≠ s.cfg.keyCtrl) (level : Bool) :
    (setLatch level key s).ctrlDown = s.ctrlDown := by
  unfold setLatch
  rw [if_neg h]
  split <;> rfl

/-- A poll writes the latch of the key answered, and no other. -/
theorem pollKeyboard_latches {s : State} {tag key : Byte} (h : s.kbdAnswer = .bytes tag key) :
    (key ≠ Config.keyAlt → (pollKeyboard s).1.altDown = s.altDown) ∧
      (key ≠ s.cfg.keyCtrl → (pollKeyboard s).1.ctrlDown = s.ctrlDown) := by
  rcases pollKeyboard_cases s with hp | ⟨level, tag', key', hk, hp⟩ <;> rw [hp]
  · exact ⟨fun _ => rfl, fun _ => rfl⟩
  · cases h.symm.trans hk
    exact ⟨fun ha => setLatch_altDown_of_ne ha ..,
      fun hc => setLatch_ctrlDown_of_ne (s := (kbdTransaction s).1) hc level⟩

/-- Settles O60: a poll is one transaction and at most one latch, and no other plan or bench row reaches a latch. -/
theorem keyboardFrame : Obligations.KeyboardFrame := by
  unfold Obligations.KeyboardFrame
  refine ⟨fun i s t hi h => ?_, fun s t hr h => ?_⟩
  · exact Prod.ext_iff.mp (exec_latches hi h)
  · have hp : acceptedPlan .kbdPoll s = hostPlan .kbdPoll s := acceptedPlan_of_accepted (hr.1 ▸ rfl)
    rw [exec_host rfl, hp, runHost_hopK hr] at h
    cases h
    have frame := eq_of_withoutK (settleK_withoutK (hostPlan .kbdPoll s) s)
    have idle : (settleK (hostPlan .kbdPoll s) s).seqK = s.seqK := (idle_of_ready_hopK hr).symm
    rw [idle] at frame
    obtain ⟨rsp, trace⟩ := pollKeyboard_traces s
    refine ⟨frame, ?_, ⟨(pollKeyboard s).2, congrArg (· ++ _) rsp⟩, fun tag key hk => pollKeyboard_latches hk⟩
    exact (congrArg List.length trace).trans List.length_append

/-! #### The keyboard rows run alone (log 4) -/

theorem kbdRequest_of_fail {s : State} {e : BusErr} (h : s.kbdAnswer = .fail e) :
    kbdRequest s = ((kbdTransaction s).1, Response.busFailed e) := by
  simp only [kbdRequest, kbdTransaction, h]

theorem kbdRequest_of_bytes {s : State} {tag key : Byte} (h : s.kbdAnswer = .bytes tag key) :
    kbdRequest s = ({ (kbdTransaction s).1 with pending := ⟨.kbdRsp, [tag, key]⟩ :: s.pending }, Response.done []) := by
  simp only [kbdRequest, kbdTransaction, h]

theorem runInner_eq {row : State → State × Response} {s u : State} {r : Response} (h : row s.onBench = (u, r)) :
    runInner row s = .next ((s.benchAfter u).innerAnswer r) := by
  simp only [runInner, h]

/-- Settles O50: the bench sees the same answer as the block. -/
theorem kbdReqMakesTheTransaction : Obligations.KbdReqMakesTheTransaction := by
  unfold Obligations.KbdReqMakesTheTransaction
  intro s asked
  have bench : s.onBench.kbdAnswer = s.kbdAnswer := rfl
  refine ⟨fun e h => ?_, fun tag key h => ?_⟩
  · exact runInner_eq (kbdRequest_of_fail (bench.trans h))
  · exact runInner_eq (kbdRequest_of_bytes (bench.trans h))

/-- A latch set on the bench. -/
theorem benchAfter_setLatch (level : Bool) (key : Byte) (s : State) :
    s.benchAfter (setLatch level key s.onBench) =
      if key = Config.keyAlt then { s with bench := { s.bench with altDown := level } }
      else if key = s.cfg.keyCtrl then { s with bench := { s.bench with ctrlDown := level } } else s := by
  unfold setLatch
  split
  · rfl
  · rw [onBench_cfg]
    split <;> rfl

theorem isModifier_iff (s : State) (key : Byte) :
    s.isModifier key = true ↔ key = Config.keyAlt ∨ key = s.cfg.keyCtrl := by
  simp only [State.isModifier, Bool.or_eq_true, beq_iff_eq]

theorem keyDown_modifier {s : State} {key : Byte} (h : s.isModifier key = true) :
    keyDown key s = (setLatch true key s, Response.done [0#8]) := if_pos h

theorem keyDown_other {s : State} {key : Byte} (h : ¬ s.isModifier key = true) :
    keyDown key s = (s, Response.done [key]) := if_neg h

/-- Settles O51: each row is its classification, on the bench. -/
theorem kbdResponsesAreClassified : Obligations.KbdResponsesAreClassified := by
  unfold Obligations.KbdResponsesAreClassified
  intro s tag key latched mod
  have modifier : s.onBench.isModifier key = true ↔ mod := isModifier_iff s key
  have latch (level : Bool) : s.benchAfter (setLatch level key s.onBench) = latched level := benchAfter_setLatch ..
  refine ⟨rfl, fun hm => ?_, fun hm => ?_, ?_, ?_, rfl⟩
  · rw [← latch]
    exact runInner_eq (keyDown_modifier (modifier.mpr hm))
  · exact runInner_eq (keyDown_other (mt modifier.mp hm))
  · rw [← latch]
    rfl
  · rw [← latch]
    rfl

end Sys2Proof.Machine

/-! ### Frames of the display side -/

namespace Sys2Proof.Machine

/-! #### What the moves of HOP_D show -/

/-- These events were recorded, and no byte of TB changed beyond the longest transaction among them (R131). -/
structure State.Emits (s t : State) (evs : List DispEvent) : Prop where
  trace : t.traceD = s.traceD ++ evs
  beyond : ∀ a, (∀ bs, .xfer bs ∈ evs → bs.length ≤ a) → Memory.read t.tb a = Memory.read s.tb a

theorem State.Emits.refl (s : State) : s.Emits s [] := ⟨(List.append_nil _).symm, fun _ _ => rfl⟩

theorem State.Emits.trans {s t u : State} {as bs : List DispEvent} (st : s.Emits t as) (tu : t.Emits u bs) :
    s.Emits u (as ++ bs) where
  trace := by rw [tu.trace, st.trace, List.append_assoc]
  beyond a ha := (tu.beyond a fun x hx => ha x (List.mem_append_right _ hx)).trans
    (st.beyond a fun x hx => ha x (List.mem_append_left _ hx))

/-- The events recorded since, as the statements of the frames write them. -/
theorem State.Emits.drop {s t : State} {evs : List DispEvent} (h : s.Emits t evs) :
    t.traceD.drop s.traceD.length = evs := by
  rw [h.trace, List.drop_left]

/-- A move fills TB whether its transaction succeeds or fails. -/
theorem perform_tb (a : Act) (s : State) : (perform a s).1.tb = (a.ready s).tb := by
  rcases perform_cases a s with h | ⟨bs, e, d, -, -, h⟩ <;> rw [h]
  · cases a with
    | drive pin level => cases pin <;> rfl
    | cache c => cases c <;> rfl
    | _ => rfl
  · rw [failed_eq]
    rfl

theorem perform_emits (a : Act) (s : State) : s.Emits (perform a s).1 a.shown where
  trace := perform_traceD a s
  beyond i hi := by
    rw [perform_tb]
    cases a with
    | chunk bs f => exact read_overlay_outside _ _ _ (hi bs List.mem_cons_self)
    | _ => rfl

/-- Moves show their events from the first on, all of them unless one fails. -/
theorem performAll_emits (acts : List Act) (s : State) :
    ∃ evs, evs <+: shown acts ∧ s.Emits (performAll acts s).1 evs := by
  induction acts generalizing s with
  | nil => exact ⟨[], List.prefix_rfl, .refl s⟩
  | cons a acts ih =>
    have ha := perform_emits a s
    simp only [performAll, shown_cons]
    split
    case h_1 t hp =>
      rw [hp] at ha
      obtain ⟨evs, hev, hs⟩ := ih t
      exact ⟨a.shown ++ evs, (List.prefix_append_right_inj _).mpr hev, ha.trans hs⟩
    case h_2 t r hp =>
      rw [hp] at ha
      exact ⟨a.shown, List.prefix_append _ _, ha⟩

theorem settleD_emits (plan : Plan) (s : State) :
    ∃ evs, evs <+: shown plan.acts ∧ s.Emits (settleD plan s) evs := by
  obtain ⟨evs, hev, hs⟩ := performAll_emits plan.acts s
  refine ⟨evs, hev, ?_⟩
  rw [settleD_eq]
  exact ⟨hs.trace, hs.beyond⟩

/-! #### What the moves of the display side keep -/

section
variable {cap : Nat} {caching line : Prop} {plan : Plan} {s : State}

theorem settleD_pbm (ha : ∀ a ∈ plan.acts, a.OfDisplay cap caching line) : (settleD plan s).pbm = s.pbm :=
  settleD_keeps (fun _ _ => rfl) (fun a hm => perform_pbm (ha a hm)) s

theorem settleD_window (hc : ¬ caching) (ha : ∀ a ∈ plan.acts, a.OfDisplay cap caching line) :
    (settleD plan s).window = s.window :=
  settleD_keeps (fun _ _ => rfl) (fun a hm => perform_window (ha a hm) hc) s

theorem settleD_rst (hl : ¬ line) (ha : ∀ a ∈ plan.acts, a.OfDisplay cap caching line) :
    (settleD plan s).rst = s.rst :=
  settleD_keeps (f := State.rst) (fun _ _ => rfl) (fun a hm => perform_rst (ha a hm) hl) s

/-- A display-side operation on an idle port changes nothing but the display side. -/
theorem settleD_display (hq : s.seqD = .idle) (ha : ∀ a ∈ plan.acts, a.OfDisplay cap caching line) :
    settleD plan s = { s with
      colStart := (settleD plan s).colStart, colEnd := (settleD plan s).colEnd, rowStart := (settleD plan s).rowStart
      rowEnd := (settleD plan s).rowEnd, sel := (settleD plan s).sel, dc := (settleD plan s).dc
      rst := (settleD plan s).rst, tb := (settleD plan s).tb, tbFill := (settleD plan s).tbFill
      traceD := (settleD plan s).traceD, rspD := (settleD plan s).rspD, busScript := (settleD plan s).busScript
      busCount := (settleD plan s).busCount } := by
  have frame := eq_of_withoutD (settleD_withoutD plan s)
  have idle : (settleD plan s).seqD = s.seqD := (settleD_seqD plan s).trans hq.symm
  have pbm := settleD_pbm (s := s) ha
  simp only [State.pbm, Prod.mk.injEq] at pbm
  obtain ⟨hpbs, hnext, hused⟩ := pbm
  rw [idle, hpbs, hnext, hused] at frame
  exact frame

end

/-- Settles O57: the operation's moves are those of the display side, and only `RESET` drives the reset line. -/
theorem displayFrame : Obligations.DisplayFrame := by
  unfold Obligations.DisplayFrame
  intro i s t hr h hi
  obtain ⟨hf, ha, hw⟩ : i.format = .hostReq ∧ acceptedOn i .hopD = true ∧ ¬ WritesBuffers i := by
    rcases hi with ⟨x, y, w, h, rfl⟩ | ⟨x, y, c, rfl⟩ | ⟨a, b, y, c, rfl⟩ | ⟨x, a, b, c, rfl⟩ | ⟨x, y, w, h, c, rfl⟩ |
      ⟨x, y, pb, rfl⟩ | rfl | rfl <;> exact ⟨rfl, rfl, id⟩
  rw [exec_ready_hopD hf ha hr] at h
  cases h
  have moves := hostPlan_ofDisplay hw s
  obtain ⟨evs, -, emits⟩ := settleD_emits (hostPlan i s) s
  exact ⟨settleD_display (idle_of_ready_hopD hr) moves, fun a hx => emits.beyond a (emits.drop ▸ hx),
    ⟨_, settleD_rspD ..⟩, fun hl => settleD_rst hl moves⟩

/-! #### The transport -/

theorem apply_level (a : Act) (s : State) :
    (a.apply s).sel = levelAfter .sel a.shown s.sel ∧ (a.apply s).dc = levelAfter .dc a.shown s.dc := by
  cases a with
  | drive pin level => cases pin <;> exact ⟨rfl, rfl⟩
  | cache c => cases c <;> exact ⟨rfl, rfl⟩
  | _ => exact ⟨rfl, rfl⟩

/-- Moves that all succeed leave the pins as their events say. -/
theorem applyAll_level (acts : List Act) (s : State) :
    (applyAll acts s).sel = levelAfter .sel (shown acts) s.sel ∧
      (applyAll acts s).dc = levelAfter .dc (shown acts) s.dc := by
  induction acts generalizing s with
  | nil => exact ⟨rfl, rfl⟩
  | cons a acts ih =>
    obtain ⟨hsel, hdc⟩ := apply_level a s
    rw [applyAll_cons, shown_cons, levelAfter_append, levelAfter_append, ← hsel, ← hdc]
    exact ih _

/-- An operation that replies `OK` leaves the pins as its events say: no draw was made (R239 (c)). -/
theorem settleD_level {plan : Plan} {s : State}
    (hok : ((performAll plan.acts s).2.getD plan.reply).status = .ok) :
    (settleD plan s).sel = levelAfter .sel (shown plan.acts) s.sel ∧
      (settleD plan s).dc = levelAfter .dc (shown plan.acts) s.dc := by
  rw [settleD_eq]
  rcases performAll_cases plan.acts s with h | ⟨before, a, after, bs, e, d, -, -, -, h⟩
  · rw [h]
    exact applyAll_level plan.acts s
  · rw [h] at hok
    cases hok

/-- The operations of the transport (R132 to R135). -/
def Transports (i : Instr) : Prop :=
  match i with
  | .writeByte .. | .writeBytes .. | .writeRep16 .. | .writePackedArray .. => True
  | _ => False

/-- The transport shows transactions and nothing else (R138). -/
theorem transports_shown {i : Instr} (hi : Transports i) (s : State) :
    ∃ xs : List (List Byte), shown (hostPlan i s).acts = xs.map .xfer := by
  cases i with
  | writeByte b => exact ⟨[[b]], rfl⟩
  | writeBytes | writeRep16 | writePackedArray => exact ⟨_, shown_stream ..⟩
  | _ => exact hi.elim

/-- Settles O56: the transport shows transactions only, so nothing but the draw after a failure writes a pin. -/
theorem transportFrame : Obligations.TransportFrame := by
  unfold Obligations.TransportFrame
  intro i s t hr h hi
  obtain ⟨hf, ha, hw, hc, hl, transports⟩ : i.format = .hostReq ∧ acceptedOn i .hopD = true ∧ ¬ WritesBuffers i ∧
      ¬ Caches i ∧ i ≠ .reset ∧ Transports i := by
    rcases hi with ⟨b, rfl⟩ | ⟨bs, rfl⟩ | ⟨v, n, rfl⟩ | ⟨cs, rfl⟩ <;> exact ⟨rfl, rfl, id, id, nofun, trivial⟩
  rw [exec_ready_hopD hf ha hr] at h
  cases h
  have moves := hostPlan_ofDisplay hw s
  obtain ⟨xs, hxs⟩ := transports_shown transports s
  obtain ⟨evs, hev, emits⟩ := settleD_emits (hostPlan i s) s
  refine ⟨?_, fun a hx => emits.beyond a (emits.drop ▸ hx), ⟨_, settleD_rspD .., fun hok => ?_⟩, ?_⟩
  · have frame := settleD_display (idle_of_ready_hopD hr) moves
    have window := settleD_window (s := s) hc moves
    simp only [State.window, Prod.mk.injEq] at window
    obtain ⟨hcs, hce, hrs, hre⟩ := window
    rw [hcs, hce, hrs, hre, settleD_rst (fun h => hl h.1) moves] at frame
    exact frame
  · have level := settleD_level hok
    rwa [hxs, levelAfter_xfers, levelAfter_xfers] at level
  · obtain ⟨ys, -, rfl⟩ := List.prefix_map_iff.mp (hxs ▸ hev)
    exact ⟨ys, emits.trace⟩

/-! #### The display commands run alone (log 4) -/

/-- HOP_D's moves, made on the bench, leave the block all but the bus answers they use. -/
theorem benchAfter_of_withoutD {s u : State} (h : u.withoutD = s.onBench.withoutD) :
    s.benchAfter u =
      { s with bench := (s.benchAfter u).bench, busScript := u.busScript, busCount := u.busCount } := by
  have script : u.kbdScript = s.kbdScript := (congrArg State.kbdScript h :)
  have count : u.kbdCount = s.kbdCount := (congrArg State.kbdCount h :)
  have pending : u.pending = s.pending := (congrArg State.pending h :)
  rw [State.benchAfter, script, count, pending]

/-- Settles O59: the moves are made on the bench, and of what they keep the block is all but the bus answers. -/
theorem displayCommandFrame : Obligations.DisplayCommandFrame := by
  unfold Obligations.DisplayCommandFrame
  intro i s t hf h
  obtain ⟨acts, he⟩ : ∃ acts, exec i s = innerD acts s := by
    rcases exec_shape i s with ⟨hh, -⟩ | ⟨-, he⟩ | ⟨hh | hh, -⟩
    · cases hf.symm.trans hh
    · exact he
    · cases hf.symm.trans hh
    · cases hf.symm.trans hh
  obtain ⟨evs, -, emits⟩ := performAll_emits acts s.onBench
  cases he ▸ h
  exact ⟨congrArg (State.innerAnswer · _) (benchAfter_of_withoutD (performAll_withoutD acts s.onBench)),
    fun a hx => emits.beyond a (emits.drop ▸ hx), ⟨_, rfl⟩⟩

/-! #### The window cache -/

/-- What an operation on HOP_D that may not cache leaves of the cache, whatever the bus answers. -/
theorem settleD_acceptedPlan_window {i : Instr} (hc : ¬ Caches i) (s : State) :
    (settleD (acceptedPlan i s) s).window = s.window := by
  rcases acceptedPlan_cases i s with ha | ⟨r, ha⟩ <;> rw [ha]
  · by_cases hw : WritesBuffers i
    · obtain ⟨r, u, hs, hu⟩ := pbm_settles hw s
      rw [hs]
      exact (congrArg State.window hu :)
    · exact settleD_window hc (hostPlan_ofDisplay hw s)
  · rfl

/-- Settles O34: the other operations' moves may not cache, a row run on the bench writes no cache, and HOP_K has no
move that does. -/
theorem onlySetWindowWritesTheCache : Obligations.OnlySetWindowWritesTheCache := by
  unfold Obligations.OnlySetWindowWritesTheCache
  intro i s t h hwin hpix hhl hvl hfill hblit hg
  have hc : ¬ Caches i := by
    cases i with
    | setWindow => exact (hwin _ _ _ _ rfl).elim
    | setPixel => exact (hpix _ _ _ rfl).elim
    | drawHLine => exact (hhl _ _ _ _ rfl).elim
    | drawVLine => exact (hvl _ _ _ _ rfl).elim
    | fillRect => exact (hfill _ _ _ _ _ rfl).elim
    | blit => exact (hblit _ _ _ rfl).elim
    | _ => exact id
  have window : t.window = s.window := by
    rcases exec_shape i s with ⟨hf, -⟩ | ⟨-, acts, he⟩ | ⟨-, row, he⟩
    · rcases exec_host_cases hf h with ⟨-, rfl⟩ | ⟨-, rfl⟩ | ⟨he, -⟩
      · exact settleD_acceptedPlan_window hc s
      · exact (congrArg State.window (settleK_withoutK (acceptedPlan i s) s) :)
      · cases hg.symm.trans he
    · cases he ▸ h
      rfl
    · cases he ▸ h
      rfl
  simpa only [State.window, Prod.mk.injEq] using window

end Sys2Proof.Machine

/-! ### Every transaction of the display protocol engine is framed (R94, R151) -/

namespace Sys2Proof.Machine

/-- From these levels of `SEL` and `DC` on, every transaction is made with `SEL = 0`, and one made with `DC = 0` is one
byte of `ops`. -/
def Framed (ops : List Byte) : Bool → Bool → List DispEvent → Prop
  | _, _, [] => True
  | sel, dc, e :: evs =>
    (∀ bs, e = .xfer bs → sel = false ∧ (dc = false → ∃ op, bs = [op] ∧ op ∈ ops)) ∧
      Framed ops (levelAfter .sel [e] sel) (levelAfter .dc [e] dc) evs

/-- Events are framed in two parts, the second from the levels that the first leaves. -/
theorem framed_append {ops : List Byte} {as bs : List DispEvent} (sel dc : Bool) :
    Framed ops sel dc (as ++ bs) ↔
      Framed ops sel dc as ∧ Framed ops (levelAfter .sel as sel) (levelAfter .dc as dc) bs := by
  induction as generalizing sel dc with
  | nil => exact ⟨fun h => ⟨trivial, h⟩, fun h => h.2⟩
  | cons e as ih =>
    rw [List.cons_append, Framed, Framed, ih, and_assoc]
    rfl

section
variable {ops : List Byte} {sel dc : Bool}

theorem framed_xfers (xs : List (List Byte)) : Framed ops false true (xs.map .xfer) := by
  induction xs with
  | nil => trivial
  | cons x xs ih => exact ⟨fun _ _ => ⟨rfl, nofun⟩, ih⟩

theorem framed_drive (pin : Pin) (level : Bool) : Framed ops sel dc [.drive pin level] := ⟨nofun, trivial⟩

theorem framed_wait (ms : Nat) : Framed ops sel dc [.wait ms] := ⟨nofun, trivial⟩

/-- A command frame: its opcode with `DC = 0`, its data with `DC = 1`, all with `SEL = 0` (R150). -/
theorem framed_frame {op : Byte} (h : op ∈ ops) (cap : Nat) (data : List Byte) :
    Framed ops sel dc (frameEvents cap op data) := by
  have opening : Framed ops sel dc [.drive .sel false, .drive .dc false, .xfer [op], .drive .dc true] := by
    refine ⟨nofun, nofun, fun bs hb => ⟨rfl, fun _ => ⟨op, ?_, h⟩⟩, nofun, trivial⟩
    cases hb
    rfl
  rw [frameEvents, framed_append, framed_append]
  exact ⟨⟨opening, framed_xfers _⟩, framed_drive ..⟩

/-- The stream of memory-write has a bracket of its own, in data mode (R152). -/
theorem framed_memWrite (h : Config.opMemoryWrite ∈ ops) (cap : Nat) (bytes : List Byte) :
    Framed ops sel dc (memWriteEvents cap bytes) := by
  rw [memWriteEvents, framed_append, framed_append, framed_append]
  exact ⟨⟨⟨framed_frame h .., framed_drive ..⟩, framed_xfers _⟩, framed_drive ..⟩

/-- One axis of a window, whose frame is sent or not. -/
theorem framed_axis {p : Prop} [Decidable p] {op : Byte} (h : op ∈ ops) (cap : Nat) (data : List Byte) :
    Framed ops sel dc (if p then [] else frameEvents cap op data) := by
  split
  · trivial
  · exact framed_frame h cap data

theorem framed_window (hc : Config.opColumnSet ∈ ops) (hr : Config.opRowSet ∈ ops) (s : State) (x y w h : Int) :
    Framed ops sel dc (windowEvents s x y w h) :=
  (framed_append ..).mpr ⟨framed_axis hc .., framed_axis hr ..⟩

theorem framed_paint (hc : Config.opColumnSet ∈ ops) (hr : Config.opRowSet ∈ ops) (hm : Config.opMemoryWrite ∈ ops)
    (s : State) (x y w h : Int) (bytes : List Byte) : Framed ops sel dc (paintEvents s x y w h bytes) :=
  (framed_append ..).mpr ⟨framed_window hc hr .., framed_memWrite hm ..⟩

end

/-- The operations of the display protocol engine (R82). -/
def OfEngine (i : Instr) : Prop :=
  match i with
  | .setWindow .. | .reset | .init | .size => True
  | i => Draws i

/-- The opcodes R87 gives an operation of the display protocol engine. -/
def engineOpcodes (i : Instr) : List Byte :=
  match i with
  | .reset => [Config.opSoftwareReset]
  | .init =>
    [Config.opPower1, Config.opPower2, Config.opVcom, Config.opPixelFormat, Config.opFrameRate,
      Config.opDisplayFunction, Config.opInversionOn, Config.opMemoryAccess, Config.opSleepOut, Config.opDisplayOn]
  | .setWindow .. => [Config.opColumnSet, Config.opRowSet]
  | _ => [Config.opColumnSet, Config.opRowSet, Config.opMemoryWrite]

theorem framed_reset (cfg : Params) (sel dc : Bool) : Framed (engineOpcodes .reset) sel dc (shown (resetActs cfg)) := by
  unfold resetActs
  split
  · exact ⟨nofun, nofun, nofun, nofun, trivial⟩
  · rw [shown_append, shown_sendCommand, framed_append]
    exact ⟨framed_frame (by decide) .., framed_wait _⟩

theorem framed_init (cfg : Params) (sel dc : Bool) : Framed (engineOpcodes .init) sel dc (shown (initActs cfg)) := by
  simp only [initActs, shown_append, shown_sendCommand, framed_append]
  refine ⟨⟨⟨⟨⟨⟨⟨⟨⟨⟨?_, ?_⟩, ?_⟩, ?_⟩, ?_⟩, ?_⟩, ?_⟩, ?_⟩, ?_⟩, framed_wait _⟩, ?_⟩ <;> exact framed_frame (by decide) ..

theorem framed_hostPlan {i : Instr} (hi : OfEngine i) (s : State) (sel dc : Bool) :
    Framed (engineOpcodes i) sel dc (shown (hostPlan i s).acts) := by
  by_cases hd : Draws i
  · have ops : engineOpcodes i = [Config.opColumnSet, Config.opRowSet, Config.opMemoryWrite] := by
      cases i with
      | setPixel | drawHLine | drawVLine | fillRect | blit => rfl
      | _ => exact hd.elim
    rw [ops]
    rcases hostPlan_paints hd s with h | ⟨x, y, w, h, bytes, hp⟩
    · rw [h]
      trivial
    · rw [hp, shown_paint]
      exact framed_paint (by decide) (by decide) (by decide) ..
  · cases i with
    | setWindow =>
      show Framed [Config.opColumnSet, Config.opRowSet] sel dc (shown (windowActs ..))
      rw [shown_window]
      exact framed_window (by decide) (by decide) ..
    | reset => exact framed_reset s.cfg sel dc
    | init => exact framed_init s.cfg sel dc
    | size => trivial
    | _ => exact (hd hi).elim

/-- Settles O33: what an operation shows is the beginning of what its moves show, which is framed; and a row of an inner
format acts on the bench. -/
theorem everyDisplayTransactionIsFramed : Obligations.EveryDisplayTransactionIsFramed := by
  unfold Obligations.EveryDisplayTransactionIsFramed
  refine ⟨fun i s t hf h => ?_, fun i s t hr h hi before bs after htrace => ?_⟩
  · rcases exec_shape i s with ⟨hh, -⟩ | ⟨-, acts, he⟩ | ⟨-, row, he⟩
    · exact (hf hh).elim
    · cases he ▸ h
      exact ⟨rfl, rfl, rfl, rfl, rfl, rfl, rfl⟩
    · cases he ▸ h
      exact ⟨rfl, rfl, rfl, rfl, rfl, rfl, rfl⟩
  · obtain ⟨hf, ha, engine⟩ : i.format = .hostReq ∧ acceptedOn i .hopD = true ∧ OfEngine i := by
      rcases hi with ⟨x, y, w, h, rfl⟩ | ⟨x, y, c, rfl⟩ | ⟨a, b, y, c, rfl⟩ | ⟨x, a, b, c, rfl⟩ |
        ⟨x, y, w, h, c, rfl⟩ | ⟨x, y, pb, rfl⟩ | rfl | rfl | rfl <;> exact ⟨rfl, rfl, trivial⟩
    rw [exec_ready_hopD hf ha hr] at h
    cases h
    obtain ⟨evs, ⟨rest, hrest⟩, emits⟩ := settleD_emits (hostPlan i s) s
    have hevs : evs = before ++ .xfer bs :: after := by
      rw [emits.trace, List.append_assoc] at htrace
      exact List.append_cancel_left htrace
    have framed := framed_hostPlan engine s s.sel s.dc
    rw [← hrest, framed_append, hevs, framed_append] at framed
    obtain ⟨⟨-, transaction, -⟩, -⟩ := framed
    exact transaction bs rfl

end Sys2Proof.Machine

/-! ### The keyboard side and the display side are apart (20_memory.md R64) -/

namespace Sys2Proof.Machine

/-- The keyboard side of `k`, with the parameters, in place of that of `s`. -/
def State.withKeyboard (s k : State) : State :=
  { s with
    cfg := k.cfg, seqK := k.seqK, altDown := k.altDown, ctrlDown := k.ctrlDown, kbdScript := k.kbdScript
    kbdCount := k.kbdCount, traceK := k.traceK, rspK := k.rspK }

/-- Who differs from `s` in no more than HOP_K writes is `s` but for its keyboard side. -/
theorem eq_withKeyboard_of_withoutK {s t : State} (h : t.withoutK = s.withoutK) : t = s.withKeyboard t := by
  have hc : t.cfg = s.cfg := (congrArg State.cfg h :)
  have frame := eq_of_withoutK h
  rw [← hc] at frame
  exact (congrArg (fun u : State => u.withKeyboard t) frame :)

/-- Who differs from `s` in no more than HOP_D writes has the keyboard side of `s`. -/
theorem eq_withKeyboard_of_withoutD {s t : State} (h : t.withoutD = s.withoutD) : t = t.withKeyboard s :=
  (congrArg (fun u : State => t.withKeyboard u) h :)

/-! #### HOP_D neither reads nor writes the keyboard side -/

section
variable (s k : State)

theorem apply_withKeyboard (a : Act) : a.apply (s.withKeyboard k) = (a.apply s).withKeyboard k := by
  cases a with
  | drive pin level => cases pin <;> rfl
  | cache c => cases c <;> rfl
  | _ => rfl

theorem ready_withKeyboard (a : Act) : a.ready (s.withKeyboard k) = (a.ready s).withKeyboard k := by
  cases a <;> rfl

theorem failed_withKeyboard (bs : List Byte) (f : Option CacheWrite) (d : FailDraw) :
    failed bs f d (s.withKeyboard k) = (failed bs f d s).withKeyboard k := by
  unfold failed drawAfterFail
  cases f with
  | none => rfl
  | some c => cases d.cacheNew <;> cases c <;> rfl

theorem perform_withKeyboard (a : Act) :
    perform a (s.withKeyboard k) = ((perform a s).1.withKeyboard k, (perform a s).2) := by
  have hb : (s.withKeyboard k).busAnswer = s.busAnswer := rfl
  cases hp : a.payload with
  | none => rw [perform_quiet hp, perform_quiet hp, apply_withKeyboard]
  | some bs =>
    cases ha : s.busAnswer with
    | ok => rw [perform_ok (hb.trans ha), perform_ok ha, apply_withKeyboard]
    | fail e d => rw [perform_fail hp (hb.trans ha), perform_fail hp ha, ready_withKeyboard, failed_withKeyboard]

theorem advanceD_withKeyboard : advanceD (s.withKeyboard k) = (advanceD s).withKeyboard k := by
  have hs : (s.withKeyboard k).seqD = s.seqD := rfl
  cases hq : s.seqD with
  | idle => simp only [advanceD, hs, hq]
  | busy sel n rest reply =>
    cases rest with
    | nil => rw [advanceD_responds hq, advanceD_responds (hs.trans hq)]; rfl
    | cons a rest => rw [advanceD_moves hq, advanceD_moves (hs.trans hq), perform_withKeyboard]; rfl

/-! #### HOP_K neither reads nor writes anything else -/

theorem setLatch_withKeyboard (level : Bool) (key : Byte) :
    setLatch level key (s.withKeyboard k) = s.withKeyboard (setLatch level key k) := by
  have hc : (s.withKeyboard k).cfg = k.cfg := rfl
  unfold setLatch
  rw [hc]
  split
  · rfl
  · split <;> rfl

theorem classify_withKeyboard (tag key : Byte) :
    classify tag key (s.withKeyboard k) = (s.withKeyboard (classify tag key k).1, (classify tag key k).2) := by
  have hm : (s.withKeyboard k).isModifier key = k.isModifier key := rfl
  unfold classify
  cases kbdTag tag with
  | none | invalid => rfl
  | held | up => exact Prod.ext (setLatch_withKeyboard ..) rfl
  | down =>
    simp only [keyDown, hm]
    split
    · exact Prod.ext (setLatch_withKeyboard ..) rfl
    · rfl

theorem pollKeyboard_withKeyboard :
    pollKeyboard (s.withKeyboard k) = (s.withKeyboard (pollKeyboard k).1, (pollKeyboard k).2) := by
  have hk : (s.withKeyboard k).kbdAnswer = k.kbdAnswer := rfl
  cases ha : k.kbdAnswer with
  | fail e => rw [pollKeyboard_of_fail ha, pollKeyboard_of_fail (hk.trans ha)]; rfl
  | bytes tag key =>
    rw [pollKeyboard_of_bytes ha, pollKeyboard_of_bytes (hk.trans ha)]
    exact classify_withKeyboard s (kbdTransaction k).1 tag key

theorem advanceK_withKeyboard : advanceK (s.withKeyboard k) = s.withKeyboard (advanceK k) := by
  have hs : (s.withKeyboard k).seqK = k.seqK := rfl
  cases hq : k.seqK with
  | idle => simp only [advanceK, hs, hq]
  | busy sel n poll reply =>
    cases poll with
    | false => rw [advanceK_responds hq, advanceK_responds (hs.trans hq)]; rfl
    | true => rw [advanceK_polls hq, advanceK_polls (hs.trans hq), pollKeyboard_withKeyboard]; rfl

theorem settleK_withKeyboard (plan : Plan) : settleK plan (s.withKeyboard k) = s.withKeyboard (settleK plan k) := by
  unfold settleK
  split
  · rw [pollKeyboard_withKeyboard]
    rfl
  · rfl

end

theorem advanceD_withoutD (s : State) : (advanceD s).withoutD = s.withoutD := by
  cases hq : s.seqD with
  | idle => simp only [advanceD, hq]
  | busy sel k rest reply =>
    cases rest with
    | nil => rw [advanceD_responds hq]; rfl
    | cons a rest => rw [advanceD_moves hq]; exact perform_withoutD a s

/-- Settles O52: in either order the display side is that of HOP_D's move and the keyboard side that of HOP_K's. -/
theorem portsCommute : Obligations.PortsCommute := by
  unfold Obligations.PortsCommute
  intro s
  calc advanceD (advanceK s)
      = advanceD (s.withKeyboard (advanceK s)) := by rw [← eq_withKeyboard_of_withoutK (advanceK_withoutK s)]
    _ = (advanceD s).withKeyboard (advanceK s) := advanceD_withKeyboard ..
    _ = advanceK ((advanceD s).withKeyboard s) := (advanceK_withKeyboard ..).symm
    _ = advanceK (advanceD s) := by rw [← eq_withKeyboard_of_withoutD (advanceD_withoutD s)]

/-- On HOP_K an operation's plan depends on the keyboard side alone. -/
theorem acceptedPlan_withKeyboard {i : Instr} {s k : State} (hs : s.port = .hopK) (hk : k.port = .hopK) :
    acceptedPlan i (s.withKeyboard k) = acceptedPlan i k := by
  have hp : (s.withKeyboard k).port = .hopK := hs
  unfold acceptedPlan
  rw [hp, hk]
  cases i <;> rfl

/-- Settles O42: the second state is a state with the keyboard side of the first, and so it is after the operation. -/
theorem keyboardSideSeesOnlyItself : Obligations.KeyboardSideSeesOnlyItself := by
  unfold Obligations.KeyboardSideSeesOnlyItself
  intro i s s' t t' hf hr hr' same h h'
  have side : s' = s'.withKeyboard s := by
    obtain ⟨cfg, alt, ctrl, script, count, trace, rsp⟩ := same
    have seq : s.seqK = s'.seqK := (idle_of_ready_hopK hr).trans (idle_of_ready_hopK hr').symm
    rw [State.withKeyboard, cfg, seq, alt, ctrl, script, count, trace, rsp]
  rw [exec_host hf, runHost_hopK hr] at h
  rw [exec_host hf, runHost_hopK hr', side, acceptedPlan_withKeyboard hr'.1 hr.1, settleK_withKeyboard] at h'
  cases h
  cases h'
  exact ⟨rfl, rfl, rfl, rfl, rfl, rfl, rfl⟩

end Sys2Proof.Machine

/-! ### Every transaction fits the buffer (R51, R58, R137) -/

namespace Sys2Proof.Machine

/-- The events recorded from `s` to `t` have transactions of 1 to `BUF_CAP` bytes. -/
def State.ShowsFitting (s t : State) : Prop :=
  ∃ evs, t.traceD = s.traceD ++ evs ∧ ∀ bs, .xfer bs ∈ evs → 1 ≤ bs.length ∧ bs.length ≤ s.cfg.bufCap

theorem showsFitting_of_traceD {s t : State} (h : t.traceD = s.traceD) : s.ShowsFitting t :=
  ⟨[], h.trans (List.append_nil _).symm, nofun⟩

/-- A move that may be made makes a transaction of 1 to `BUF_CAP` bytes, if it makes one. -/
theorem fits_shown {cfg : Params} {a : Act} (ha : a.fits cfg.bufCap) {bs : List Byte} (h : .xfer bs ∈ a.shown) :
    1 ≤ bs.length ∧ bs.length ≤ cfg.bufCap := by
  have two := bufCap_ge_two cfg
  cases a with
  | send b f =>
    cases List.mem_singleton.mp h
    exact ⟨le_rfl, by rw [List.length_singleton]; omega⟩
  | chunk cs f =>
    cases List.mem_singleton.mp h
    exact ⟨List.length_pos_iff.mpr ha.1, ha.2⟩
  | drive | wait => cases List.mem_singleton.mp h
  | _ => cases h

theorem restOk_shown {s : State} {acts : List Act} (hr : s.RestOk acts) {bs : List Byte} (h : .xfer bs ∈ shown acts) :
    1 ≤ bs.length ∧ bs.length ≤ s.cfg.bufCap := by
  obtain ⟨a, ha, hbs⟩ := List.mem_flatMap.mp h
  rcases hr with fits | ⟨w, h, rfl, -⟩
  · exact fits_shown (fits a ha) hbs
  · cases List.mem_singleton.mp ha
    cases hbs

theorem settleD_showsFitting {plan : Plan} {s : State} (hr : s.RestOk plan.acts) :
    s.ShowsFitting (settleD plan s) := by
  obtain ⟨evs, hev, emits⟩ := settleD_emits plan s
  exact ⟨evs, emits.trace, fun _ h => restOk_shown hr (hev.subset h)⟩

theorem finishD_showsFitting {s : State} (hs : s.Inv) : s.ShowsFitting (finishD s) := by
  cases hq : s.seqD with
  | idle => exact showsFitting_of_traceD (by simp only [finishD, hq])
  | busy sel k rest reply =>
    have settled : finishD s = settleD ⟨rest, false, reply⟩ s := by rw [← finishD_busy s sel k, ← hq]
    exact settled ▸ settleD_showsFitting (hs.restOk _ _ _ _ hq)

theorem traceD_of_withoutK {s t : State} (h : t.withoutK = s.withoutK) : t.traceD = s.traceD :=
  (congrArg State.traceD h :)

theorem advanceD_showsFitting {s : State} (hs : s.Inv) : s.ShowsFitting (advanceD s) := by
  cases hq : s.seqD with
  | idle => exact showsFitting_of_traceD (by simp only [advanceD, hq])
  | busy sel k rest reply =>
    cases rest with
    | nil => exact showsFitting_of_traceD (by rw [advanceD_responds hq, respondD_traceD])
    | cons a rest =>
      refine ⟨a.shown, ?_, fun _ h => restOk_shown (hs.restOk _ _ _ _ hq) (List.mem_append_left _ h)⟩
      rw [advanceD_moves hq]
      exact perform_traceD a s

theorem advances_one_showsFitting (p : Port) {s : State} (hs : s.Inv) : s.ShowsFitting (advances p 1 s) := by
  cases p with
  | hopD => exact advanceD_showsFitting hs
  | hopK => exact showsFitting_of_traceD (traceD_of_withoutK (advanceK_withoutK s))

theorem accept_traceD (sel : Byte) (plan : Plan) (s : State) : (accept sel plan s).traceD = s.traceD := by
  unfold accept
  split <;> rfl

theorem finish_accept_showsFitting {sel : Byte} {plan : Plan} {s : State} (hr : s.RestOk plan.acts) :
    s.ShowsFitting (finish (accept sel plan s)) := by
  cases hp : s.port with
  | hopD =>
    rw [accept_hopD hp, finish_hopD (by exact hp), finishD_busy]
    exact settleD_showsFitting hr
  | hopK =>
    rw [accept_hopK hp, finish_hopK (by exact hp), finishK_busy]
    exact showsFitting_of_traceD (traceD_of_withoutK (settleK_withoutK _ s))

theorem runHost_showsFitting {sel : Byte} {plan : Plan} {s t : State} (hr : s.RestOk plan.acts)
    (h : runHost sel plan s = .next t) : s.ShowsFitting t := by
  obtain ⟨-, ⟨-, rfl⟩ | ⟨-, rfl⟩⟩ := runHost_cases h
  · exact finish_accept_showsFitting hr
  · exact showsFitting_of_traceD (accept_traceD ..)

/-- A host operation makes transactions that fit, and a row run on the bench none (log 4). -/
theorem exec_showsFitting {i : Instr} {s t : State} (h : exec i s = .next t) : s.ShowsFitting t := by
  rcases exec_shape i s with ⟨hf, -⟩ | ⟨-, acts, he⟩ | ⟨-, row, he⟩
  · exact runHost_showsFitting (acceptedPlan_restOk i s) (exec_host hf s ▸ h)
  · cases he ▸ h
    exact showsFitting_of_traceD rfl
  · cases he ▸ h
    exact showsFitting_of_traceD rfl

theorem submit_showsFitting {r : Request} {s t : State} (h : (submit r s).outcome = .next t) : s.ShowsFitting t := by
  rcases submit_cases h with ⟨i, -, hi⟩ | ⟨sel, -, -, hr⟩
  · exact (exec_showsFitting hi :)
  · exact (runHost_showsFitting (restOk_nil _) hr :)

theorem step_showsFitting {s t : State} (hs : s.Inv) (h : step s = .next t) : s.ShowsFitting t := by
  cases step_cases h with
  | finishesD _ _ next => exact next ▸ finishD_showsFitting hs
  | finishesK _ _ _ next => exact showsFitting_of_traceD (next ▸ traceD_of_withoutK (finishK_withoutK s))
  | waits _ _ _ _ next => exact showsFitting_of_traceD (next ▸ rfl)
  | submits r rs _ _ _ _ next => exact (submit_showsFitting next :)
  | moves _ _ next =>
    have turn : (turnTaken s).Inv := hs.of_scheduling _ _ _ _
    exact next ▸ (advances_one_showsFitting s.turn turn :)
  | passes _ _ _ next => exact showsFitting_of_traceD (next ▸ rfl)
  | takes r rs _ _ _ next => exact (submit_showsFitting next :)

/-- Settles O12: a step adds to the trace only transactions that fit, and keeps the parameters. -/
theorem everyTransactionFitsTheBuffer : Obligations.EveryTransactionFitsTheBuffer := by
  unfold Obligations.EveryTransactionFitsTheBuffer
  intro s t hs fits h bs hbs
  obtain ⟨evs, trace, new⟩ := step_showsFitting hs h
  rw [(step_grows h).cfg]
  rcases List.mem_append.mp (trace ▸ hbs) with old | added
  · exact fits bs old
  · exact new bs added

end Sys2Proof.Machine

/-! ### Pixel buffer memory: a pixel written is read (R56, R212, R214) -/

namespace Sys2Proof.Machine

theorem pixelBuffer_of_below {s : State} {pb : Byte} (h : pb.toNat < s.pbmNext) :
    s.pixelBuffer pb = s.pbs[pb.toNat]? := if_pos h

/-- A pixel lies inside the buffer. -/
abbrev PixelBuffer.Inside (b : PixelBuffer) (x y : Half) : Prop :=
  0 ≤ x.toInt ∧ x.toInt < b.w.toNat ∧ 0 ≤ y.toInt ∧ y.toInt < b.h.toNat

/-- The word of a pixel: row by row (R56). -/
def PixelBuffer.index (b : PixelBuffer) (x y : Half) : Nat := y.toInt.toNat * u16 b.w + x.toInt.toNat

section
variable {b : PixelBuffer} {x y : Half}

theorem index?_of_inside (h : b.Inside x y) : b.index? (s16 x) (s16 y) = some (b.index x y) := by
  refine if_neg ?_
  simp only [s16, u16]
  omega

theorem index_lt_words (h : b.Inside x y) : b.index x y < b.words := by
  have row : (y.toInt.toNat + 1) * u16 b.w ≤ u16 b.h * u16 b.w := Nat.mul_le_mul_right _ (by simp only [u16]; omega)
  rw [Nat.succ_mul] at row
  rw [PixelBuffer.words, Nat.mul_comm]
  simp only [PixelBuffer.index, u16] at *
  omega

/-- Two pixels inside have the same word only if they are the same (R56). -/
theorem index_injective {x' y' : Half} (h : b.Inside x y) (h' : b.Inside x' y') (he : b.index x' y' = b.index x y) :
    (x', y') = (x, y) := by
  have width {x y : Half} (h : b.Inside x y) : x.toInt.toNat < u16 b.w := by simp only [u16]; omega
  have column {x y : Half} (h : b.Inside x y) : b.index x y % u16 b.w = x.toInt.toNat := by
    rw [PixelBuffer.index, Nat.mul_add_mod_of_lt (width h)]
  have row {x y : Half} (h : b.Inside x y) : b.index x y / u16 b.w = y.toInt.toNat := by
    rw [PixelBuffer.index, Nat.mul_comm, Nat.mul_add_div (by have := width h; omega), Nat.div_eq_of_lt (width h),
      Nat.add_zero]
  have hx : x'.toInt.toNat = x.toInt.toNat := by rw [← column h', he, column h]
  have hy : y'.toInt.toNat = y.toInt.toNat := by rw [← row h', he, row h]
  rw [Prod.mk.injEq]
  exact ⟨BitVec.eq_of_toInt_eq (by omega), BitVec.eq_of_toInt_eq (by omega)⟩

end

section
variable {s : State} {pb : Byte} {b : PixelBuffer} {x y : Half}

theorem withBuffer_some (hb : s.pixelBuffer pb = some b) (sel : Byte) (plan : PixelBuffer → Plan) :
    withBuffer sel pb s plan = plan b := by
  simp only [withBuffer, hb]

theorem exec_pbSet_inside (hr : s.Ready .hopD) (hb : s.pixelBuffer pb = some b) (h : b.Inside x y) (c : Half) :
    exec (.pbSet pb x y c) s = .next (respondD (Response.done []) (pbWriteOp pb (b.index x y) c s)) := by
  have plan : hostPlan (.pbSet pb x y c) s = setPlan pb (s16 x) (s16 y) c b := withBuffer_some hb ..
  rw [exec_ready_hopD rfl rfl hr, plan, setPlan, index?_of_inside h]
  exact congrArg _ (settleD_single rfl [] s)

theorem exec_pbGet_inside (hr : s.Ready .hopD) (hb : s.pixelBuffer pb = some b) (h : b.Inside x y) :
    exec (.pbGet pb x y) s = .next (respondD (Response.done (halfBytes (b.word (b.index x y)))) s) := by
  have plan : hostPlan (.pbGet pb x y) s = getPlan (Instr.pbGet pb x y).code (s16 x) (s16 y) b :=
    withBuffer_some hb ..
  rw [exec_ready_hopD rfl rfl hr, plan, getPlan, index?_of_inside h]
  exact congrArg _ (settleD_answer _ s)

/-- A write leaves the record with the one word changed. -/
theorem pbWriteOp_pixelBuffer (hb : s.pixelBuffer pb = some b) (i : Nat) (c : Half) :
    (pbWriteOp pb i c s).pixelBuffer pb = some { b with data := b.data.set i c } := by
  unfold State.pixelBuffer at hb
  split at hb
  case isTrue below => rw [pixelBuffer_of_below (by exact below), pbWriteOp, List.getElem?_modify_eq, hb]; rfl
  case isFalse => cases hb

end

/-- HOP_D is ready again after its response. -/
theorem respondD_ready {s : State} (hp : s.port = .hopD) (hg : s.grain = .whole) (r : Response) :
    (respondD r s).Ready .hopD :=
  ⟨hp, (portIsBusy_eq_false _).mpr (by rw [respondD_port, hp]; exact fun busy => busy rfl), hg⟩

theorem word_set_same {b : PixelBuffer} {i : Nat} (h : i < b.data.length) (c : Half) :
    PixelBuffer.word { b with data := b.data.set i c } i = c := by
  simp [PixelBuffer.word, h]

theorem word_set_other {b : PixelBuffer} {i j : Nat} (h : j ≠ i) (c : Half) :
    PixelBuffer.word { b with data := b.data.set i c } j = b.word j := by
  simp [PixelBuffer.word, List.getElem?_set_ne h.symm]

/-- Settles O48: the write sets the word of its pixel, which no other pixel inside has. -/
theorem pbGetReadsWhatPbSetWrote : Obligations.PbGetReadsWhatPbSetWrote := by
  unfold Obligations.PbGetReadsWhatPbSetWrote
  intro pb x y x' y' c s t b hr hs below hb inside inside' h
  have buffer : s.pixelBuffer pb = some b := (pixelBuffer_of_below below).trans hb
  have size : b.index x y < b.data.length :=
    (index_lt_words inside).trans_eq (hs.pbWords b (List.mem_of_getElem? hb)).symm
  rw [exec_pbSet_inside hr buffer inside] at h
  cases h
  have ready := respondD_ready (s := pbWriteOp pb (b.index x y) c s) hr.1 hr.2.2 (Response.done [])
  have written := pbWriteOp_pixelBuffer buffer (b.index x y) c
  refine ⟨?_, fun other => ⟨_, exec_pbGet_inside hr buffer inside', ?_⟩⟩
  · rw [exec_pbGet_inside ready written inside]
    exact congrArg (fun v => Host.Outcome.next (respondD (Response.done (halfBytes v)) _)) (word_set_same size c)
  · rw [exec_pbGet_inside ready written inside']
    exact congrArg (fun v => Host.Outcome.next (respondD (Response.done (halfBytes v)) _))
      (word_set_other (fun he => other (index_injective inside inside' he)) c)

end Sys2Proof.Machine

/-! ### The observer of the display bus (R66 to R70, log 14) -/

namespace Sys2Proof.Machine

@[simp] theorem watch_nil (o : Observer) : o.watch [] = o := rfl

@[simp] theorem watch_cons (o : Observer) (e : DispEvent) (evs : List DispEvent) :
    o.watch (e :: evs) = (o.event e).watch evs := rfl

theorem watch_append (o : Observer) (as bs : List DispEvent) : o.watch (as ++ bs) = (o.watch as).watch bs :=
  List.foldl_append

/-! #### Chunks -/

/-- Transactions are read byte by byte. -/
theorem watch_xfers (o : Observer) (xs : List (List Byte)) :
    o.watch (xs.map .xfer) = xs.flatten.foldl Observer.byte o := by
  rw [Observer.watch, List.foldl_map, List.foldl_flatten]
  rfl

theorem chunks_flatten (cap unit : Nat) (bytes : List Byte) : (chunks cap unit bytes).flatten = bytes :=
  chunksFrom_flatten _ bytes [] 0

theorem watch_chunks (o : Observer) (cap unit : Nat) (bytes : List Byte) :
    o.watch ((chunks cap unit bytes).map .xfer) = bytes.foldl Observer.byte o := by
  rw [watch_xfers, chunks_flatten]

/-- Settles O37: of transactions the observer reads the bytes one by one, and the chunks are the payload's bytes. -/
theorem chunkingIsInvisible : Obligations.ChunkingIsInvisible := by
  unfold Obligations.ChunkingIsInvisible
  refine ⟨fun o xs ys h => ?_, fun o cap unit bs => ?_⟩
  · rw [watch_xfers, watch_xfers, h]
  · rw [watch_chunks]
    rfl

/-! #### Command frames (R150) -/

/-- The observer of a frame once its opcode was sent and the bus is in data mode. -/
def Observer.opened (o : Observer) (op : Byte) : Observer := { o.command op with sel := some false, dc := some true }

theorem command_pins (o : Observer) (op : Byte) (sel dc : Option Bool) :
    ({ o with sel := sel, dc := dc } : Observer).command op = { o.command op with sel := sel, dc := dc } := by
  unfold Observer.command Observer.forget
  split_ifs <;> rfl

theorem command_reads (o : Observer) (op : Byte) : (o.command op).opcode = some op ∧ (o.command op).data = [] := by
  unfold Observer.command Observer.forget
  split_ifs <;> exact ⟨rfl, rfl⟩

theorem watch_opcode (o : Observer) (op : Byte) :
    o.watch [.drive .sel false, .drive .dc false, .xfer [op]] =
      { o.command op with sel := some false, dc := some false } :=
  command_pins o op (some false) (some false)

theorem watch_opening (o : Observer) (op : Byte) :
    o.watch [.drive .sel false, .drive .dc false, .xfer [op], .drive .dc true] = o.opened op := by
  rw [show [.drive .sel false, .drive .dc false, .xfer [op], .drive .dc true] =
    [.drive .sel false, .drive .dc false, .xfer [op]] ++ [DispEvent.drive .dc true] from rfl, watch_append, watch_opcode]
  rfl

theorem watch_frame (o : Observer) (cap : Nat) (op : Byte) (data : List Byte) :
    o.watch (frameEvents cap op data) = (data.foldl Observer.byte (o.opened op)).deselect := by
  rw [frameEvents, watch_append, watch_append, watch_opening, watch_chunks]
  rfl

/-- The data bytes of a command other than memory-write are collected. -/
theorem foldl_byte_command {o : Observer} {op : Byte} (hs : o.sel = some false) (hd : o.dc = some true)
    (ho : o.opcode = some op) (hop : op ≠ Config.opMemoryWrite) (bytes : List Byte) :
    bytes.foldl Observer.byte o = { o with data := o.data ++ bytes } := by
  induction bytes generalizing o with
  | nil => simp
  | cons b bytes ih =>
    have first : o.byte b = { o with data := o.data ++ [b] } := by
      simp only [Observer.byte, hs, hd, Observer.datum, ho, if_neg hop]
    rw [List.foldl_cons, first, ih (o := { o with data := o.data ++ [b] }) hs hd ho, List.append_assoc,
      List.singleton_append]

theorem foldl_byte_opened {op : Byte} (hop : op ≠ Config.opMemoryWrite) (o : Observer) (bytes : List Byte) :
    bytes.foldl Observer.byte (o.opened op) = { o.opened op with data := bytes } := by
  obtain ⟨opcode, data⟩ := command_reads o op
  rw [foldl_byte_command (o := o.opened op) rfl rfl opcode hop, show (o.opened op).data = [] from data,
    List.nil_append]

/-- The observer between frames, no command going on. -/
def Observer.closed (o : Observer) : Observer :=
  { o with sel := some true, dc := some true, opcode := none, data := [], count := 0 }

/-- A complete column-set frame latches its range (R66). -/
theorem watch_columnFrame (o : Observer) (cap : Nat) (first last : Half) :
    o.watch (frameEvents cap Config.opColumnSet (halfBytes first ++ halfBytes last)) =
      { o.closed with cols := some (first, last) } := by
  rw [watch_frame, foldl_byte_opened (by decide)]
  have range : rangeOf (halfBytes first ++ halfBytes last) = some (first, last) := by
    simp [rangeOf, halfBytes]
  show { o.closed with cols := rangeOf (halfBytes first ++ halfBytes last) } = _
  rw [range]

/-- A complete row-set frame latches its range (R66). -/
theorem watch_rowFrame (o : Observer) (cap : Nat) (first last : Half) :
    o.watch (frameEvents cap Config.opRowSet (halfBytes first ++ halfBytes last)) =
      { o.closed with rows := some (first, last) } := by
  rw [watch_frame, foldl_byte_opened (by decide)]
  have range : rangeOf (halfBytes first ++ halfBytes last) = some (first, last) := by
    simp [rangeOf, halfBytes]
  show { o.closed with rows := rangeOf (halfBytes first ++ halfBytes last) } = _
  rw [range]

end Sys2Proof.Machine

/-! ### The observer of a window, of a stream and of `RESET` (R66, R67, R69, R153, log 14) -/

namespace Sys2Proof.Machine

/-! #### Window frames (R66, R153) -/

theorem columnEvents_eq_nil {s : State} {a b : Half} :
    columnEvents s a b = [] ↔ (a, b) = (s.colStart, s.colEnd) := by
  unfold columnEvents
  split
  case isTrue h => exact ⟨fun _ => h, fun _ => rfl⟩
  case isFalse h => exact ⟨fun he => (frameEvents_ne_nil _ _ _ he).elim, fun he => (h he).elim⟩

theorem rowEvents_eq_nil {s : State} {a b : Half} : rowEvents s a b = [] ↔ (a, b) = (s.rowStart, s.rowEnd) := by
  unfold rowEvents
  split
  case isTrue h => exact ⟨fun _ => h, fun _ => rfl⟩
  case isFalse h => exact ⟨fun he => (frameEvents_ne_nil _ _ _ he).elim, fun he => (h he).elim⟩

theorem columnEvents_of_ne_nil {s : State} {a b : Half} (h : columnEvents s a b ≠ []) :
    columnEvents s a b = frameEvents s.cfg.bufCap Config.opColumnSet (halfBytes a ++ halfBytes b) :=
  if_neg (mt columnEvents_eq_nil.mpr h)

theorem rowEvents_of_ne_nil {s : State} {a b : Half} (h : rowEvents s a b ≠ []) :
    rowEvents s a b = frameEvents s.cfg.bufCap Config.opRowSet (halfBytes a ++ halfBytes b) :=
  if_neg (mt rowEvents_eq_nil.mpr h)

/-- The column half of `SetWindow` latches its range if it is sent, and tells nothing else. -/
theorem watch_columnEvents (o : Observer) (s : State) (a b : Half) :
    (o.watch (columnEvents s a b)).cols = (if columnEvents s a b = [] then o.cols else some (a, b)) ∧
      (o.watch (columnEvents s a b)).rows = o.rows ∧ (o.watch (columnEvents s a b)).painted = o.painted := by
  by_cases h : columnEvents s a b = []
  · rw [h]
    exact ⟨rfl, rfl, rfl⟩
  · rw [if_neg h, columnEvents_of_ne_nil h, watch_columnFrame]
    exact ⟨rfl, rfl, rfl⟩

/-- The row half of `SetWindow` latches its range if it is sent, and tells nothing else. -/
theorem watch_rowEvents (o : Observer) (s : State) (a b : Half) :
    (o.watch (rowEvents s a b)).rows = (if rowEvents s a b = [] then o.rows else some (a, b)) ∧
      (o.watch (rowEvents s a b)).cols = o.cols ∧ (o.watch (rowEvents s a b)).painted = o.painted := by
  by_cases h : rowEvents s a b = []
  · rw [h]
    exact ⟨rfl, rfl, rfl⟩
  · rw [if_neg h, rowEvents_of_ne_nil h, watch_rowFrame]
    exact ⟨rfl, rfl, rfl⟩

/-! #### The stream of memory-write (R67, R152) -/

/-- The observer at the start of a stream. -/
def Observer.streaming (o : Observer) : Observer :=
  { o with sel := some false, dc := some true, opcode := some Config.opMemoryWrite, data := [], count := 0 }

theorem watch_memWrite (o : Observer) (cap : Nat) (bytes : List Byte) :
    o.watch (memWriteEvents cap bytes) = (bytes.foldl Observer.byte o.streaming).deselect := by
  rw [memWriteEvents, watch_append, watch_append, watch_append, watch_chunks, watch_frame]
  rfl

/-- The bytes to come are those of a stream. -/
structure Observer.Streams (o : Observer) : Prop where
  sel : o.sel = some false
  dc : o.dc = some true
  opcode : o.opcode = some Config.opMemoryWrite

theorem streaming_streams (o : Observer) : o.streaming.Streams := ⟨rfl, rfl, rfl⟩

/-- A byte of a stream completes a pixel or is kept. -/
theorem byte_cases {o : Observer} (hs : o.Streams) (b : Byte) :
    (∃ hi, o.data = [hi] ∧ o.byte b = o.pixel (half hi b)) ∨
      (∀ hi, o.data ≠ [hi]) ∧ o.byte b = { o with data := [b] } := by
  simp only [Observer.byte, hs.sel, hs.dc, Observer.datum, hs.opcode, if_pos]
  split
  case h_1 hi h => exact .inl ⟨hi, h, rfl⟩
  case h_2 h => exact .inr ⟨h, rfl⟩

theorem foldl_byte_pixel {o : Observer} (hs : o.Streams) (hd : o.data = []) (hi lo : Byte) :
    [hi, lo].foldl Observer.byte o = o.pixel (half hi lo) := by
  have first : o.byte hi = { o with data := [hi] } := by
    rcases byte_cases hs hi with ⟨_, h, -⟩ | ⟨-, h⟩
    · cases hd.symm.trans h
    · exact h
  rw [List.foldl_cons, first]
  rcases byte_cases (o := { o with data := [hi] }) ⟨hs.sel, hs.dc, hs.opcode⟩ lo with ⟨_, ⟨⟩, h⟩ | ⟨h, -⟩
  · exact h
  · exact (h hi rfl).elim

theorem deselect_painted (o : Observer) : o.deselect.painted = o.painted := by
  unfold Observer.deselect
  split_ifs <;> rfl

/-! #### A stream while a range is unknown (R69) -/

/-- A range is unknown. -/
def Observer.Lost (o : Observer) : Prop := o.cols = none ∨ o.rows = none

theorem pixel_of_lost {o : Observer} (h : o.Lost) (c : Half) :
    o.pixel c = { o with data := [], count := o.count + 1, painted := [] } := by
  unfold Observer.pixel
  rcases h with h | h
  · simp only [h]
  · simp only [h]
    cases o.cols <;> rfl

/-- Bytes of a stream give no pixel a place while a range is unknown. -/
theorem foldl_byte_of_lost {o : Observer} (hs : o.Streams) (hl : o.Lost) (hp : o.painted = []) (bytes : List Byte) :
    (bytes.foldl Observer.byte o).painted = [] := by
  induction bytes generalizing o with
  | nil => exact hp
  | cons b bytes ih =>
    rw [List.foldl_cons]
    rcases byte_cases hs b with ⟨hi, -, h⟩ | ⟨-, h⟩ <;> rw [h]
    · rw [pixel_of_lost hl]
      exact ih ⟨hs.sel, hs.dc, hs.opcode⟩ hl rfl
    · exact ih ⟨hs.sel, hs.dc, hs.opcode⟩ hl hp

/-- A whole pixel streamed while a range is unknown may be anywhere. -/
theorem watch_memWrite_of_lost {o : Observer} (hl : o.Lost) (cap : Nat) {bytes : List Byte} (hb : 2 ≤ bytes.length) :
    (o.watch (memWriteEvents cap bytes)).painted = [] := by
  obtain ⟨hi, lo, rest, rfl⟩ : ∃ hi lo rest, bytes = [hi, lo] ++ rest := by
    match bytes, hb with
    | hi :: lo :: rest, _ => exact ⟨hi, lo, rest, rfl⟩
  rw [watch_memWrite, deselect_painted, List.foldl_append, foldl_byte_pixel (streaming_streams o) rfl,
    pixel_of_lost (o := o.streaming) hl]
  exact foldl_byte_of_lost (o := { o.streaming with count := 1, painted := [] }) ⟨rfl, rfl, rfl⟩ hl rfl rest

/-- Axes whose frame is not sent stay unknown. -/
theorem watch_window_lost {o : Observer} {s : State} {x y w h : Int}
    (hl : (o.cols = none ∧ columnEvents s (trunc16 x) (trunc16 (x + w - 1)) = []) ∨
      (o.rows = none ∧ rowEvents s (trunc16 y) (trunc16 (y + h - 1)) = [])) :
    (o.watch (windowEvents s x y w h)).Lost := by
  rw [windowEvents, watch_append]
  rcases hl with ⟨unknown, quiet⟩ | ⟨unknown, quiet⟩
  · left
    obtain ⟨-, cols, -⟩ := watch_rowEvents
      (o.watch (columnEvents s (trunc16 x) (trunc16 (x + w - 1)))) s (trunc16 y) (trunc16 (y + h - 1))
    rw [cols, quiet, watch_nil, unknown]
  · right
    rw [quiet, watch_nil, (watch_columnEvents o s _ _).2.1, unknown]

/-! #### Outcomes of an operation that runs (R237) -/

/-- Of the next transactions all succeed, or one is the first to fail. -/
theorem busOk_or_fails (s : State) (n : Nat) :
    s.BusOk n ∨ ∃ j e d, j < n ∧ s.BusOk j ∧ s.busAt j = .fail e d := by
  induction n with
  | zero => exact .inl nofun
  | succ n ih =>
    rcases ih with hok | ⟨j, e, d, hj, hok, hf⟩
    · cases h : s.busAt n with
      | ok => exact .inl fun j hj => (Nat.lt_succ_iff_lt_or_eq.mp hj).elim (hok j) fun he => he ▸ h
      | fail e d => exact .inr ⟨n, e, d, n.lt_succ_self, hok, h⟩
    · exact .inr ⟨j, e, d, Nat.lt_succ_of_lt hj, hok, hf⟩

theorem runs_cases {s t done : State} {i : Instr} {evs : List DispEvent} (hr : s.Runs i evs done)
    (h : exec i s = .next t) :
    t = respondD (Response.done []) done ∨ ∃ j e d, j < xferCount evs ∧ s.FailedAt t evs j e d := by
  rcases busOk_or_fails s (xferCount evs) with hok | ⟨j, e, d, hj, hok, hf⟩
  · cases h.symm.trans (hr.1 hok)
    exact .inl rfl
  · obtain ⟨t', ht, failed⟩ := hr.2 j e d hj hok hf
    cases h.symm.trans ht
    exact .inr ⟨j, e, d, hj, failed⟩

/-! #### After `RESET` (R69) -/

theorem shown_reset (cfg : Params) : shown (resetActs cfg) =
    if cfg.hasRst then [.drive .rst false, .wait Config.tRstHold, .drive .rst true, .wait Config.tRstSettle]
    else frameEvents cfg.bufCap Config.opSoftwareReset [] ++ [.wait Config.tRstSettle] := by
  unfold resetActs
  split
  · rfl
  · rw [shown_append, shown_sendCommand]
    rfl

/-- The observer knows neither range and no pixel. -/
def Observer.Blank (o : Observer) : Prop := o.cols = none ∧ o.rows = none ∧ o.painted = []

theorem watch_reset_blank (o : Observer) (cfg : Params) : (o.operation (shown (resetActs cfg)) .ok).Blank := by
  rw [shown_reset]
  split
  · exact ⟨rfl, rfl, rfl⟩
  · exact ⟨rfl, rfl, rfl⟩

/-- The one transaction of `RESET` that can fail is the software-reset opcode. -/
theorem watch_reset_failed_blank (o : Observer) (cfg : Params) {j : Nat}
    (hj : j < xferCount (shown (resetActs cfg))) :
    (o.operation (throughXfer (shown (resetActs cfg)) j) .busFail).Blank := by
  rw [shown_reset] at hj ⊢
  split at hj
  case isTrue => exact (Nat.not_lt_zero j hj).elim
  case isFalse hrst =>
    obtain rfl : j = 0 := Nat.lt_one_iff.mp hj
    rw [if_neg hrst]
    exact ⟨rfl, rfl, rfl⟩

theorem reset_blank {s t : State} {r : Response} (o : Observer) (hr : s.Ready .hopD) (h : exec .reset s = .next t)
    (ht : t.rspD = s.rspD ++ [r]) : (o.operation (t.traceD.drop s.traceD.length) r.status).Blank := by
  have runs := runs_of_plan (i := .reset) (plan := fun s => Plan.run (resetActs s.cfg) []) rfl hr rfl
  rcases runs_cases runs h with rfl | ⟨j, e, d, hj, trace, rsp, -⟩
  · rw [respondD_rspD, applyAll_rspD] at ht
    cases List.append_cancel_left ht
    rw [respondD_traceD, applyAll_traceD, List.drop_left]
    exact watch_reset_blank o s.cfg
  · cases List.append_cancel_left (rsp.symm.trans ht)
    rw [trace, List.drop_left]
    exact watch_reset_failed_blank o s.cfg hj

/-- Settles O38: `RESET` forgets both ranges at the reset line or at the opcode, and an axis whose frame is not sent stays
unknown up to the stream. -/
theorem observerForgetsAtReset : Obligations.ObserverForgetsAtReset := by
  unfold Obligations.ObserverForgetsAtReset
  refine ⟨fun s t o r hr h ht => reset_blank o hr h ht, fun i s t o x y w h bytes _ _ _ trace hb hl => ?_⟩
  rw [trace, List.drop_left]
  show (o.watch (windowEvents s x y w h ++ memWriteEvents s.cfg.bufCap bytes)).painted = []
  rw [watch_append]
  exact watch_memWrite_of_lost (watch_window_lost hl) _ hb

end Sys2Proof.Machine

/-! ### The observer of a failed window frame (R239 (b), R268, log 14) -/

namespace Sys2Proof.Machine

theorem throughXfer_append_left {as : List DispEvent} (bs : List DispEvent) {j : Nat} (h : j < xferCount as) :
    throughXfer (as ++ bs) j = throughXfer as j := by
  induction as generalizing j with
  | nil => cases h
  | cons e as ih =>
    cases e with
    | xfer x =>
      cases j with
      | zero => rfl
      | succ j => exact congrArg _ (ih (by simpa [xferCount] using h))
    | drive | wait => exact congrArg _ (ih (by simpa [xferCount] using h))

theorem throughXfer_append_right (as bs : List DispEvent) (j : Nat) :
    throughXfer (as ++ bs) (xferCount as + j) = as ++ throughXfer bs j := by
  induction as with
  | nil => rw [xferCount, List.countP_nil, Nat.zero_add]; rfl
  | cons e as ih =>
    cases e with
    | xfer x =>
      have count : xferCount (.xfer x :: as) + j = xferCount as + j + 1 := by simp [xferCount]; omega
      rw [count]
      exact congrArg _ ih
    | drive | wait => exact congrArg _ ih

theorem throughXfer_xfers (cs : List (List Byte)) (j : Nat) :
    ∃ xs : List (List Byte), throughXfer (cs.map .xfer) j = xs.map .xfer := by
  induction cs generalizing j with
  | nil => exact ⟨[], rfl⟩
  | cons c cs ih =>
    cases j with
    | zero => exact ⟨[c], rfl⟩
    | succ j =>
      obtain ⟨xs, h⟩ := ih j
      exact ⟨c :: xs, congrArg _ h⟩

/-- The last event is the transaction. -/
theorem throughXfer_last {evs : List DispEvent} {j : Nat} (h : j < xferCount evs) :
    ∃ before bs, throughXfer evs j = before ++ [.xfer bs] := by
  induction evs generalizing j with
  | nil => cases h
  | cons e evs ih =>
    cases e with
    | xfer x =>
      cases j with
      | zero => exact ⟨[], x, rfl⟩
      | succ j =>
        obtain ⟨before, bs, hb⟩ := ih (j := j) (by simpa [xferCount] using h)
        exact ⟨.xfer x :: before, bs, congrArg _ hb⟩
    | drive | wait =>
      obtain ⟨before, bs, hb⟩ := ih (j := j) (by simpa [xferCount] using h)
      exact ⟨_ :: before, bs, congrArg _ hb⟩

theorem xferCount_frame (cap : Nat) (op : Byte) (data : List Byte) :
    xferCount (frameEvents cap op data) = 1 + (chunks cap 1 data).length := by
  rw [frameEvents, xferCount_append, xferCount_append, xferCount_xfers]
  rfl

/-- Of a command frame that ends at a transaction the observer has read the opcode, which leaves the ranges as it says,
and some data (R268). -/
theorem watch_throughXfer_frame {op : Byte} (hop : op ≠ Config.opMemoryWrite) (o : Observer) (cap : Nat)
    (data : List Byte) {j : Nat} (h : j < xferCount (frameEvents cap op data)) :
    ∃ dc bytes, o.watch (throughXfer (frameEvents cap op data) j) =
      { o.command op with sel := some false, dc := dc, data := bytes } := by
  cases j with
  | zero => exact ⟨_, _, watch_opcode o op⟩
  | succ j =>
    obtain ⟨xs, hxs⟩ := throughXfer_xfers (chunks cap 1 data) j
    have count : j < xferCount ((chunks cap 1 data).map .xfer) := by
      rw [xferCount_frame] at h
      rw [xferCount_xfers]
      omega
    have split : throughXfer (frameEvents cap op data) (j + 1) =
        [.drive .sel false, .drive .dc false, .xfer [op], .drive .dc true] ++ xs.map .xfer := by
      rw [frameEvents, List.append_assoc, ← hxs, ← throughXfer_append_left [.drive .sel true] count, Nat.add_comm]
      exact throughXfer_append_right [.drive .sel false, .drive .dc false, .xfer [op], .drive .dc true] _ j
    exact ⟨some true, xs.flatten, by rw [split, watch_append, watch_opening, watch_xfers, foldl_byte_opened hop]; rfl⟩

/-- An operation that fails in a window frame leaves the ranges as they were read (log 14). -/
theorem operation_windowFailed {o read : Observer} {evs : List DispEvent} {j : Nat} (h : j < xferCount evs)
    (hr : o.watch (throughXfer evs j) = read)
    (hop : read.opcode = some Config.opColumnSet ∨ read.opcode = some Config.opRowSet) :
    (o.operation (throughXfer evs j) .busFail).cols = read.cols ∧
      (o.operation (throughXfer evs j) .busFail).rows = read.rows := by
  obtain ⟨before, bs, hb⟩ := throughXfer_last h
  have failed : o.operation (throughXfer evs j) .busFail = (o.watch before).failed bs := by
    simp only [Observer.operation, hb, List.getLast?_concat, List.dropLast_concat]
  have all : bs.foldl Observer.byte (o.watch before) = read := by
    rw [← hr, hb, watch_append]
    rfl
  rw [failed, Observer.failed, all]
  simp only [if_pos hop, and_self]

theorem operation_columnFailed (o : Observer) {s : State} {a b : Half} (more : List DispEvent) {j : Nat}
    (h : j < xferCount (columnEvents s a b)) :
    (o.operation (throughXfer (columnEvents s a b ++ more) j) .busFail).cols = none ∧
      (o.operation (throughXfer (columnEvents s a b ++ more) j) .busFail).rows = o.rows := by
  have sent : columnEvents s a b ≠ [] := by rintro he; rw [he] at h; cases h
  rw [throughXfer_append_left more h]
  rw [columnEvents_of_ne_nil sent] at h ⊢
  obtain ⟨dc, bytes, read⟩ := watch_throughXfer_frame (by decide) o _ _ h
  exact operation_windowFailed h read (.inl rfl)

theorem operation_rowFailed (o : Observer) {s : State} {a b : Half} (before : List DispEvent) {j : Nat}
    (h : j < xferCount (rowEvents s a b)) :
    (o.operation (throughXfer (before ++ rowEvents s a b) (xferCount before + j)) .busFail).rows = none ∧
      (o.operation (throughXfer (before ++ rowEvents s a b) (xferCount before + j)) .busFail).cols =
        (o.watch before).cols := by
  have sent : rowEvents s a b ≠ [] := by rintro he; rw [he] at h; cases h
  have inside : xferCount before + j < xferCount (before ++ rowEvents s a b) := by
    rw [xferCount_append]
    omega
  have part : o.watch (throughXfer (before ++ rowEvents s a b) (xferCount before + j)) =
      (o.watch before).watch (throughXfer (rowEvents s a b) j) := by
    rw [throughXfer_append_right, watch_append]
  obtain ⟨dc, bytes, read⟩ : ∃ dc bytes, (o.watch before).watch (throughXfer (rowEvents s a b) j) =
      { (o.watch before).command Config.opRowSet with sel := some false, dc := dc, data := bytes } := by
    rw [rowEvents_of_ne_nil sent] at h ⊢
    exact watch_throughXfer_frame (by decide) _ _ _ h
  exact (operation_windowFailed inside (part.trans read) (.inr rfl)).symm

/-- Settles O39: the frame that failed was read up to its opcode at least, which leaves its axis unknown. -/
theorem observerLosesTheFailedAxis : Obligations.ObserverLosesTheFailedAxis := by
  unfold Obligations.ObserverLosesTheFailedAxis
  intro x y w h s t o j e d hr xs xe colEvs hj hok hf ht
  have runs := runs_of_plan (i := .setWindow x y w h)
    (plan := fun s => Plan.run (windowActs s (s16 x) (s16 y) (s16 w) (s16 h)) []) rfl hr rfl
  rw [shown_window] at runs
  obtain ⟨t', ht', trace, -⟩ := runs.2 j e d hj hok hf
  cases ht.symm.trans ht'
  rw [trace, List.drop_left]
  intro after
  split
  case isTrue hcol => exact operation_columnFailed o _ hcol
  case isFalse hcol =>
    obtain ⟨k, rfl⟩ := Nat.exists_eq_add_of_le (Nat.le_of_not_lt hcol)
    have hrow : k < xferCount (rowEvents s (trunc16 y.toInt) (trunc16 (y.toInt + h.toInt - 1))) := by
      have total : xferCount colEvs + k < xferCount (colEvs ++ rowEvents s (trunc16 y.toInt)
        (trunc16 (y.toInt + h.toInt - 1))) := hj
      rwa [xferCount_append, Nat.add_lt_add_iff_left] at total
    obtain ⟨rows, cols⟩ := operation_rowFailed o colEvs hrow
    exact ⟨rows, cols.trans (watch_columnEvents o s xs xe).1⟩

end Sys2Proof.Machine

/-! ### The observer of a fill in a known window (R66, R67, R160, log 14) -/

namespace Sys2Proof.Machine

/-- A pixel streamed at a known place. -/
theorem pixel_placed {o : Observer} {cols rows : Half × Half} {p : Nat × Nat} (hc : o.cols = some cols)
    (hr : o.rows = some rows) (hp : pixelPlace cols rows o.count = some p) (c : Half) :
    o.pixel c = { o with data := [], count := o.count + 1, painted := o.painted ++ [(p.1, p.2, c)] } := by
  simp only [Observer.pixel, hc, hr, Nat.add_sub_cancel, hp]

theorem repeatHalf_succ (c : Half) (n : Nat) : repeatHalf c (n + 1) = repeatHalf c n ++ halfBytes c := by
  simp [repeatHalf, List.replicate_succ']

/-- The observer after `n` pixels of one colour of a stream, each at its place. -/
def Observer.filling (o : Observer) (place : Nat → Nat × Nat) (c : Half) (n : Nat) : Observer :=
  { o.streaming with
    count := n, painted := o.painted ++ (List.range n).map fun k => ((place k).1, (place k).2, c) }

theorem filling_succ {o : Observer} {cols rows : Half × Half} (hc : o.cols = some cols) (hr : o.rows = some rows)
    {place : Nat → Nat × Nat} {n : Nat} (hp : pixelPlace cols rows n = some (place n)) (c : Half) :
    (o.filling place c n).pixel c = o.filling place c (n + 1) := by
  rw [pixel_placed (o := o.filling place c n) hc hr hp]
  simp only [Observer.filling, List.range_succ, List.map_append, List.append_assoc]
  rfl

/-- A stream of one colour into a known window paints the places of its pixels in order. -/
theorem foldl_byte_fill {o : Observer} {cols rows : Half × Half} (hc : o.cols = some cols) (hr : o.rows = some rows)
    {place : Nat → Nat × Nat} (c : Half) (n : Nat) (hp : ∀ k < n, pixelPlace cols rows k = some (place k)) :
    (repeatHalf c n).foldl Observer.byte o.streaming = o.filling place c n := by
  induction n with
  | zero => simp [repeatHalf, Observer.filling, Observer.streaming]
  | succ n ih =>
    rw [repeatHalf_succ, List.foldl_append, ih fun k hk => hp k (Nat.lt_succ_of_lt hk), halfBytes,
      foldl_byte_pixel (o := o.filling place c n) ⟨rfl, rfl, rfl⟩ rfl, half_hi8_lo8,
      filling_succ hc hr (hp n n.lt_succ_self)]

theorem trunc16_toNat {v : Int} (h0 : 0 ≤ v) (h : v < 65536) : (trunc16 v).toNat = v.toNat := by
  rw [trunc16, BitVec.toNat_ofInt]
  omega

/-- The places of a window inside the coordinates: row by row (R67). -/
theorem pixelPlace_window {x y w h : Int} (hx : 0 ≤ x) (hw : 0 < w) (hxw : x + w ≤ 65536) (hy : 0 ≤ y) (hh : 0 < h)
    (hyh : y + h ≤ 65536) {k : Nat} (hk : k < w.toNat * h.toNat) :
    pixelPlace (trunc16 x, trunc16 (x + w - 1)) (trunc16 y, trunc16 (y + h - 1)) k =
      some (x.toNat + k % w.toNat, y.toNat + k / w.toNat) := by
  have width : (trunc16 (x + w - 1)).toNat + 1 - (trunc16 x).toNat = w.toNat := by
    rw [trunc16_toNat (by omega) (by omega), trunc16_toNat hx (by omega)]
    omega
  have height : (trunc16 (y + h - 1)).toNat + 1 - (trunc16 y).toNat = h.toNat := by
    rw [trunc16_toNat (by omega) (by omega), trunc16_toNat hy (by omega)]
    omega
  simp only [pixelPlace, width, height, if_pos hk]
  rw [trunc16_toNat hx (by omega), trunc16_toNat hy (by omega)]

/-- An observer who knows the cached window knows the one set (R154). -/
theorem watch_window {o : Observer} {s : State} (hc : o.cols = some (s.colStart, s.colEnd))
    (hr : o.rows = some (s.rowStart, s.rowEnd)) (x y w h : Int) :
    (o.watch (windowEvents s x y w h)).cols = some (trunc16 x, trunc16 (x + w - 1)) ∧
      (o.watch (windowEvents s x y w h)).rows = some (trunc16 y, trunc16 (y + h - 1)) ∧
      (o.watch (windowEvents s x y w h)).painted = o.painted := by
  obtain ⟨cols, rows, painted⟩ := watch_columnEvents o s (trunc16 x) (trunc16 (x + w - 1))
  obtain ⟨rows', cols', painted'⟩ := watch_rowEvents
    (o.watch (columnEvents s (trunc16 x) (trunc16 (x + w - 1)))) s (trunc16 y) (trunc16 (y + h - 1))
  rw [windowEvents, watch_append, cols', rows', painted', cols, rows, painted]
  refine ⟨?_, ?_, rfl⟩
  · split
    case isTrue cached => rw [hc, columnEvents_eq_nil.mp cached]
    case isFalse => rfl
  · split
    case isTrue cached => rw [hr, rowEvents_eq_nil.mp cached]
    case isFalse => rfl

/-- The end of a stream keeps what was read. -/
theorem deselect_stream {o : Observer} (h : o.opcode = some Config.opMemoryWrite) :
    o.deselect = { o with sel := some true, data := [] } := if_pos h

theorem watch_paint_fill {o : Observer} {s : State} (hc : o.cols = some (s.colStart, s.colEnd))
    (hr : o.rows = some (s.rowStart, s.rowEnd)) {x y w h : Int} (hx : 0 ≤ x) (hw : 0 < w) (hxw : x + w ≤ 65536)
    (hy : 0 ≤ y) (hh : 0 < h) (hyh : y + h ≤ 65536) (c : Half) :
    (o.watch (paintEvents s x y w h (repeatHalf c (w * h).toNat))).painted =
        o.painted ++ (List.range (w.toNat * h.toNat)).map
          (fun k => (x.toNat + k % w.toNat, y.toNat + k / w.toNat, c)) ∧
      (o.watch (paintEvents s x y w h (repeatHalf c (w * h).toNat))).cols = some (trunc16 x, trunc16 (x + w - 1)) ∧
      (o.watch (paintEvents s x y w h (repeatHalf c (w * h).toNat))).rows = some (trunc16 y, trunc16 (y + h - 1)) := by
  obtain ⟨cols, rows, painted⟩ := watch_window hc hr x y w h
  have places : ∀ k < w.toNat * h.toNat,
      pixelPlace (trunc16 x, trunc16 (x + w - 1)) (trunc16 y, trunc16 (y + h - 1)) k =
        some (x.toNat + k % w.toNat, y.toNat + k / w.toNat) :=
    fun k hk => pixelPlace_window hx hw hxw hy hh hyh hk
  rw [paintEvents, watch_append, watch_memWrite, Int.toNat_mul hw.le hh.le, foldl_byte_fill cols rows c _ places,
    deselect_stream rfl, ← painted]
  exact ⟨rfl, cols, rows⟩

/-- `FILL_RECT` clips an axis as R160 says. -/
theorem clipAxis_eq_rectAxis (far : Bool) (o n dim : Int) : clipAxis far o n dim = rectAxis far o n dim := by
  have origin : (if o < 0 then (0, n + o) else (o, n)) = (max o 0, n + min o 0) := by
    split <;> refine Prod.ext ?_ ?_ <;> simp only <;> omega
  simp only [clipAxis, origin, rectAxis]
  cases far with
  | false => simp
  | true =>
    refine Prod.ext rfl ?_
    simp only [true_and, if_true]
    split <;> omega

theorem fillPlan_eq (x y w h : Int) (c : Half) (s : State) :
    fillPlan x y w h c s =
      let a := rectAxis s.cfg.rectClipFar x w Config.panelWidth
      let b := rectAxis s.cfg.rectClipFar y h Config.panelHeight
      if a.2 ≤ 0 ∨ b.2 ≤ 0 then Plan.noOp
      else Plan.run (paintActs s a.1 b.1 a.2 b.2 (repeatHalf c (a.2 * b.2).toNat)) [] := by
  simp only [fillPlan, clipAxis_eq_rectAxis]

/-- A clipped axis lies on the panel (R169). -/
theorem rectAxis_inside (o n dim : Int) :
    0 ≤ (rectAxis true o n dim).1 ∧ (rectAxis true o n dim).1 + (rectAxis true o n dim).2 ≤ dim := by
  simp only [rectAxis, if_true]
  omega

theorem opEvents_fillRect (x y w h c : Half) (s : State) :
    opEvents (.fillRect x y w h c) s =
      let a := rectAxis s.cfg.rectClipFar x.toInt w.toInt Config.panelWidth
      let b := rectAxis s.cfg.rectClipFar y.toInt h.toInt Config.panelHeight
      if 0 < a.2 ∧ 0 < b.2 then paintEvents s a.1 b.1 a.2 b.2 (repeatHalf c (a.2 * b.2).toNat) else [] := rfl

/-- Settles O36: after the window is set the observer knows it, and the stream fills it row by row. -/
theorem fillRectPaintsExactlyItsRectangle : Obligations.FillRectPaintsExactlyItsRectangle := by
  unfold Obligations.FillRectPaintsExactlyItsRectangle
  intro x y w h c s t o hr hfar hcols hrows hok ht a b
  have plan := fillPlan_eq x.toInt y.toInt w.toInt h.toInt c s
  have events := opEvents_fillRect x y w h c s
  rw [hfar] at plan events
  by_cases hab : 0 < a.2 ∧ 0 < b.2
  · have runs := runs_of_plan (i := .fillRect x y w h c) (plan := fillPlan x.toInt y.toInt w.toInt h.toInt c) rfl hr
      (plan.trans (if_neg (not_or.mpr ⟨not_le.mpr hab.1, not_le.mpr hab.2⟩)))
    rw [shown_paint, applyAll_paint] at runs
    cases ht.symm.trans (runs.1 (events.trans (if_pos hab) ▸ hok))
    obtain ⟨hx, hxw⟩ : 0 ≤ a.1 ∧ a.1 + a.2 ≤ 320 := rectAxis_inside ..
    obtain ⟨hy, hyh⟩ : 0 ≤ b.1 ∧ b.1 + b.2 ≤ 320 := rectAxis_inside ..
    exact ⟨_, rfl, watch_paint_fill hcols hrows hx hab.1 (by omega) hy hab.2 (by omega) c⟩
  · have clipped : a.2 ≤ 0 ∨ b.2 ≤ 0 := by omega
    have nothing : a.2.toNat * b.2.toNat = 0 := Nat.mul_eq_zero.mpr (clipped.imp Int.toNat_of_nonpos Int.toNat_of_nonpos)
    have noOp : hostPlan (.fillRect x y w h c) s = Plan.noOp := plan.trans (if_pos clipped)
    rw [exec_ready_hopD rfl rfl hr, noOp] at ht
    cases ht
    refine ⟨[], (List.append_nil _).symm, ?_, hcols, hrows⟩
    rw [nothing]
    exact (List.append_nil _).symm

end Sys2Proof.Machine

/-! ### Frames and instructions (30_encoding.md R82, R83, R86, R87, R91, R92, R96)

By `decode_ok_iff_encode` a whole frame of any format decodes to the instruction it is the frame of, and nothing else
decodes; `decodeHost_cases` says all that the decoder of host frames answers. -/

namespace Sys2Proof.Machine

/-! #### Host requests -/

/-- The selectors of the map (R82). -/
def hostSelectors : List Nat :=
  [0x01, 0x02, 0x10, 0x11, 0x12, 0x13, 0x20, 0x21, 0x22, 0x23, 0x24, 0x25, 0x26, 0x27, 0x28, 0x30, 0x31, 0x40, 0x41,
    0x42, 0x43, 0x44]

theorem code_mem_hostSelectors {i : Instr} (hf : i.format = .hostReq) : i.code.toNat ∈ hostSelectors := by
  cases i with
  | toPacked | makePacked | writeByte | writeBytes | writeRep16 | writePackedArray | setWindow | setPixel | drawHLine
  | drawVLine | fillRect | blit | reset | init | size | kbdPoll | kbdLatch | pbCreate | pbSet | pbFill | pbGet
  | pbSize => simp [Instr.code, hostSelectors]
  | _ => cases hf

/-- All that the decoder of host frames can answer, and to which bytes. -/
inductive HostDecoded (bytes : List Byte) : Except DecodeError (Instr × List Byte) → Prop
  /-- The frame of a well-formed host request, and what follows it. -/
  | frame (i : Instr) (rest : List Byte) (format : i.format = .hostReq) (wf : i.wf = true)
      (front : encode i ++ rest = bytes) : HostDecoded bytes (.ok (i, rest))
  | empty (nothing : bytes = []) : HostDecoded bytes (.error .empty)
  /-- Too few bytes after a selector of the map (R93). -/
  | short (sel : Byte) (ops : List Byte) (assigned : sel.toNat ∈ hostSelectors) (front : sel :: ops = bytes) :
      HostDecoded bytes (.error (.short sel))
  /-- A selector outside the map (R93). -/
  | unassigned (sel : Byte) (ops : List Byte) (outside : sel.toNat ∉ hostSelectors) (front : sel :: ops = bytes) :
      HostDecoded bytes (.error (.unassigned sel))

theorem HostDecoded.of_operands {sel : Byte} {ops rest : List Byte} {i : Instr} (hs : sel.toNat = i.code.toNat)
    (hf : i.format = .hostReq) (hw : i.wf = true) (ho : i.operands ++ rest = ops) :
    HostDecoded (sel :: ops) (.ok (i, rest)) :=
  .frame i rest hf hw (by rw [encode, List.cons_append, ho, BitVec.eq_of_toNat_eq hs])

/-- A count field read from four bytes is written back as them (R83). -/
theorem countBytes_of_length {n3 n2 n1 n0 : Byte} {len : Nat} (h : len = (count32 n3 n2 n1 n0).toNat) :
    countBytes (BitVec.ofNat 32 len) = [n3, n2, n1, n0] := by
  rw [h, BitVec.ofNat_toNat, BitVec.setWidth_eq, countBytes_count32]

theorem writePackedArray_operands (cs : List Half) :
    (Instr.writePackedArray cs).operands = countBytes (BitVec.ofNat 32 cs.length) ++ pairBytes cs := rfl

/-- An array of bytes is as many as its count, if there are so many (R83). -/
theorem writeBytes_decoded {sel : Byte} (hs : sel.toNat = 0x11) (n3 n2 n1 n0 : Byte) (data : List Byte) :
    HostDecoded (sel :: n3 :: n2 :: n1 :: n0 :: data)
      (if data.length < (count32 n3 n2 n1 n0).toNat then .error (.short sel)
      else .ok (.writeBytes (data.take (count32 n3 n2 n1 n0).toNat), data.drop (count32 n3 n2 n1 n0).toNat)) := by
  split
  case isTrue => exact .short sel _ (by simp [hs, hostSelectors]) rfl
  case isFalse enough =>
    have len : (data.take (count32 n3 n2 n1 n0).toNat).length = (count32 n3 n2 n1 n0).toNat :=
      List.length_take_of_le (not_lt.mp enough)
    refine .of_operands hs rfl (decide_eq_true (len.trans_lt (count32 n3 n2 n1 n0).isLt)) ?_
    rw [Instr.operands, countBytes_of_length len, List.append_assoc, List.take_append_drop]
    rfl

/-- An array of colours is twice as many bytes as its count, if there are so many (R83). -/
theorem writePackedArray_decoded {sel : Byte} (hs : sel.toNat = 0x13) (n3 n2 n1 n0 : Byte) (data : List Byte) :
    HostDecoded (sel :: n3 :: n2 :: n1 :: n0 :: data)
      (if data.length < 2 * (count32 n3 n2 n1 n0).toNat then .error (.short sel)
      else .ok (.writePackedArray (halves (data.take (2 * (count32 n3 n2 n1 n0).toNat))),
        data.drop (2 * (count32 n3 n2 n1 n0).toNat))) := by
  split
  case isTrue => exact .short sel _ (by simp [hs, hostSelectors]) rfl
  case isFalse enough =>
    have taken : (data.take (2 * (count32 n3 n2 n1 n0).toNat)).length = 2 * (count32 n3 n2 n1 n0).toNat :=
      List.length_take_of_le (not_lt.mp enough)
    have len : (halves (data.take (2 * (count32 n3 n2 n1 n0).toNat))).length = (count32 n3 n2 n1 n0).toNat := by
      rw [halves_length, taken, Nat.mul_div_cancel_left _ Nat.two_pos]
    have pairs := pairBytes_halves (data.take (2 * (count32 n3 n2 n1 n0).toNat)) (by omega)
    refine .of_operands hs rfl (decide_eq_true (len.trans_lt (count32 n3 n2 n1 n0).isLt)) ?_
    rw [writePackedArray_operands, countBytes_of_length len, pairs, List.append_assoc, List.take_append_drop]
    rfl

theorem decodeHost_cases (bytes : List Byte) : HostDecoded bytes (decodeHost bytes) := by
  cases bytes with
  | nil => exact .empty rfl
  | cons sel ops =>
    unfold decodeHost
    dsimp only
    split
    case h_7 hs => exact writeBytes_decoded hs ..
    case h_11 hs => exact writePackedArray_decoded hs ..
    -- an assigned selector, and too few bytes for its operands
    case h_2 hs _ | h_4 hs _ | h_6 hs _ | h_8 hs _ | h_10 hs _ | h_12 hs _ | h_14 hs _ | h_16 hs _ | h_18 hs _
      | h_20 hs _ | h_22 hs _ | h_24 hs _ | h_31 hs _ | h_33 hs _ | h_35 hs _ | h_37 hs _ | h_39 hs _ =>
      exact .short sel _ (by simp [hs, hostSelectors]) rfl
    case h_40 =>
      refine .unassigned sel _ ?_ rfl
      simp only [hostSelectors, List.mem_cons, List.not_mem_nil, or_false, not_or]
      and_intros <;> assumption
    -- a frame of fixed length
    all_goals exact .of_operands ‹_› rfl rfl (by simp [Instr.operands, halfBytes])

theorem decodeHost_encode_append {i : Instr} (hf : i.format = .hostReq) (hw : i.wf = true) (rest : List Byte) :
    decodeHost (encode i ++ rest) = .ok (i, rest) := by
  cases i with
  | writeBytes bs =>
    have len : bs.length < 4294967296 := of_decide_eq_true hw
    simp [encode, Instr.code, Instr.operands, countBytes, decodeHost.eq_def, Nat.mod_eq_of_lt len]
  | writePackedArray cs =>
    have len : cs.length < 4294967296 := of_decide_eq_true hw
    simp [encode, Instr.code, writePackedArray_operands, countBytes, decodeHost.eq_def, Nat.mod_eq_of_lt len,
      List.take_left' (pairBytes_length cs), List.drop_left' (pairBytes_length cs)]
  | toPacked | makePacked | writeByte | writeRep16 | setWindow | setPixel | drawHLine | drawVLine | fillRect | blit
  | reset | init | size | kbdPoll | kbdLatch | pbCreate | pbSet | pbFill | pbGet | pbSize =>
    simp [encode, Instr.code, Instr.operands, halfBytes, countBytes, decodeHost.eq_def]
  | _ => cases hf

/-- Host frames decode to the instruction they are the frame of, whatever follows them (R83). -/
theorem decodeHost_ok_iff {bytes rest : List Byte} {i : Instr} :
    decodeHost bytes = .ok (i, rest) ↔ i.format = .hostReq ∧ i.wf = true ∧ encode i ++ rest = bytes := by
  constructor
  · intro h
    have decoded := decodeHost_cases bytes
    rw [h] at decoded
    cases decoded with
    | frame _ _ format wf front => exact ⟨format, wf, front⟩
  · rintro ⟨format, wf, rfl⟩
    exact decodeHost_encode_append format wf rest

/-- Settles O4: of the answers of the decoder only that of a selector outside the map says so. -/
theorem unassignedSelectorsAreRejected : Obligations.UnassignedSelectorsAreRejected := by
  unfold Obligations.UnassignedSelectorsAreRejected
  intro sel ops
  change _ ↔ sel.toNat ∉ hostSelectors
  have decoded := decodeHost_cases (sel :: ops)
  generalize decodeHost (sel :: ops) = answer at decoded
  cases decoded with
  | frame i rest format wf front =>
    cases front
    exact ⟨nofun, fun outside => (outside (code_mem_hostSelectors format)).elim⟩
  | empty nothing => cases nothing
  | short _ _ assigned front =>
    cases front
    exact ⟨nofun, fun outside => (outside assigned).elim⟩
  | unassigned _ _ outside front =>
    cases front
    exact ⟨fun _ => outside, fun _ => rfl⟩

/-- No host frame is the beginning of another one: what is cut off from a frame makes it short (R93). -/
theorem decodeHost_take {i : Instr} (hf : i.format = .hostReq) (hw : i.wf = true) {n : Nat}
    (hn : n < (encode i).length) :
    ∃ e, decodeHost ((encode i).take n) = .error e ∧ (e = .empty ∨ ∃ sel, e = .short sel) := by
  have split := List.take_append_drop n (encode i)
  have decoded := decodeHost_cases ((encode i).take n)
  generalize decodeHost ((encode i).take n) = answer at decoded
  cases decoded with
  | empty => exact ⟨_, rfl, .inl rfl⟩
  | short sel => exact ⟨_, rfl, .inr ⟨sel, rfl⟩⟩
  | frame j rest format wf front =>
    rw [← front, List.append_assoc] at split
    have whole := decodeHost_ok_iff.mpr ⟨hf, hw, List.append_nil _⟩
    rw [decodeHost_ok_iff.mpr ⟨format, wf, split⟩] at whole
    simp only [Except.ok.injEq, Prod.mk.injEq, List.append_eq_nil_iff] at whole
    obtain ⟨-, -, cut⟩ := whole
    exact absurd (List.drop_eq_nil_iff.mp cut) (not_le.mpr hn)
  | unassigned sel ops outside front =>
    rw [← front, List.cons_append, encode, List.cons.injEq] at split
    exact (outside (split.1 ▸ code_mem_hostSelectors hf)).elim

/-! #### Answers that are frames -/

/-- An answer of a decoder of a format is right: the bytes begin with the frame of the well-formed instruction it
answers. -/
def DecodesFrame (f : Format) (bytes : List Byte) (answer : Except DecodeError (Instr × List Byte)) : Prop :=
  ∀ i rest, answer = .ok (i, rest) → i.format = f ∧ i.wf = true ∧ encode i ++ rest = bytes

theorem decodesFrame_ok {f : Format} {bytes rest : List Byte} {i : Instr} (hf : i.format = f) (hw : i.wf = true)
    (front : encode i ++ rest = bytes) : DecodesFrame f bytes (.ok (i, rest)) := by
  rintro _ _ ⟨⟩
  exact ⟨hf, hw, front⟩

theorem decodesFrame_error {f : Format} {bytes : List Byte} {e : DecodeError} : DecodesFrame f bytes (.error e) := nofun

theorem decodesFrame_ite {f : Format} {bytes : List Byte} {p : Prop} [Decidable p]
    {x y : Except DecodeError (Instr × List Byte)} (hx : p → DecodesFrame f bytes x) (hy : DecodesFrame f bytes y) :
    DecodesFrame f bytes (if p then x else y) := by
  split
  case isTrue h => exact hx h
  case isFalse => exact hy

/-! #### Display commands -/

/-- A command without data bytes (R87). -/
theorem bare_decodesFrame (i : Instr) {op : Byte} {data : List Byte} (hf : i.format = .dispCmd) (hw : i.wf = true)
    (hd : i.operands = []) (hop : op = i.code) : DecodesFrame .dispCmd (op :: data) (.ok (i, data)) :=
  decodesFrame_ok hf hw (by rw [encode, hd, hop, List.singleton_append])

/-- A command's data bytes are those it was made of (R87). -/
theorem dispData_decodesFrame {op : Byte} {n : Nat} {data : List Byte} {make : List Byte → Option Instr}
    (hm : ∀ xs i, make xs = some i → i.format = .dispCmd ∧ i.wf = true ∧ encode i = op :: xs) :
    DecodesFrame .dispCmd (op :: data) (dispData op n data make) := by
  unfold dispData
  split
  case h_1 i made =>
    obtain ⟨format, wf, front⟩ := hm _ _ made
    exact decodesFrame_ok format wf (by rw [front, List.cons_append, List.take_append_drop])
  case h_2 => exact decodesFrame_error

theorem decodeDisp_decodesFrame (bytes : List Byte) : DecodesFrame .dispCmd bytes (decodeDisp bytes) := by
  cases bytes with
  | nil => exact decodesFrame_error
  | cons op data =>
    unfold decodeDisp
    refine decodesFrame_ite (bare_decodesFrame .softwareReset rfl rfl rfl) <|
      decodesFrame_ite (bare_decodesFrame .sleepOut rfl rfl rfl) <|
      decodesFrame_ite (bare_decodesFrame .inversionOn rfl rfl rfl) <|
      decodesFrame_ite (bare_decodesFrame .displayOn rfl rfl rfl) <|
      decodesFrame_ite (fun hop => dispData_decodesFrame ?columnAddressSet) <|
      decodesFrame_ite (fun hop => dispData_decodesFrame ?pageAddressSet) <|
      decodesFrame_ite (fun hop => ?memoryWrite) <|
      decodesFrame_ite (fun hop => dispData_decodesFrame ?memoryAccessControl) <|
      decodesFrame_ite (fun hop => dispData_decodesFrame ?pixelFormat) <|
      decodesFrame_ite (fun hop => dispData_decodesFrame ?frameRateControl) <|
      decodesFrame_ite (fun hop => dispData_decodesFrame ?displayFunctionControl) <|
      decodesFrame_ite (fun hop => dispData_decodesFrame ?powerControl1) <|
      decodesFrame_ite (fun hop => dispData_decodesFrame ?powerControl2) <|
      decodesFrame_ite (fun hop => dispData_decodesFrame ?vcomControl) <| decodesFrame_error
    case memoryWrite =>
      split
      case isTrue => exact decodesFrame_error
      case isFalse whole =>
        obtain ⟨nonempty, even⟩ : data ≠ [] ∧ data.length % 2 = 0 := by simpa using whole
        have pixels : halves data ≠ [] := fun none => nonempty (by rw [← pairBytes_halves data even, none]; rfl)
        refine decodesFrame_ok rfl (by simpa [Instr.wf] using pixels) ?_
        rw [List.append_nil, encode, Instr.operands, ← pairBytes, pairBytes_halves data even, hop, Instr.code]
    all_goals
      intro xs i made
      split at made <;> cases made
      exact ⟨rfl, rfl, by simp [encode, Instr.code, Instr.operands, halfBytes, hop]⟩

theorem decodeDisp_memoryWrite {data : List Byte} (nonempty : data ≠ []) (even : data.length % 2 = 0) :
    decodeDisp (Config.opMemoryWrite :: data) = .ok (.memoryWrite (halves data), []) := by
  show (if (data.isEmpty || data.length % 2 == 1) = true then _ else _) = _
  rw [if_neg (by simp [nonempty, even])]

theorem decodeDisp_encode {i : Instr} (hf : i.format = .dispCmd) (hw : i.wf = true) :
    decodeDisp (encode i) = .ok (i, []) := by
  cases i with
  | memoryWrite pixels =>
    have nonempty : pairBytes pixels ≠ [] := by
      cases pixels with
      | nil => cases hw
      | cons c cs => exact nofun
    exact (decodeDisp_memoryWrite nonempty (by simp)).trans (by rw [halves_pairBytes])
  | columnAddressSet first last =>
    show Except.ok (Instr.columnAddressSet (half (hi8 first) (lo8 first)) (half (hi8 last) (lo8 last)), []) = _
    rw [half_hi8_lo8, half_hi8_lo8]
  | pageAddressSet first last =>
    show Except.ok (Instr.pageAddressSet (half (hi8 first) (lo8 first)) (half (hi8 last) (lo8 last)), []) = _
    rw [half_hi8_lo8, half_hi8_lo8]
  | softwareReset | sleepOut | inversionOn | displayOn | memoryAccessControl | pixelFormat | frameRateControl
  | displayFunctionControl | powerControl1 | powerControl2 | vcomControl => rfl
  | _ => cases hf

/-! #### The keyboard -/

/-- What a tag says (R92). -/
theorem kbdTag_cases (tag : Byte) :
    tag = Config.tagNone ∧ kbdTag tag = .none ∨ tag = Config.tagDown ∧ kbdTag tag = .down ∨
      tag = Config.tagHeld ∧ kbdTag tag = .held ∨ tag = Config.tagUp ∧ kbdTag tag = .up ∨
      (∀ key, (Instr.kbdRspInvalid tag key).wf = true) ∧ kbdTag tag = .invalid := by
  unfold kbdTag
  split_ifs <;> simp_all [Instr.wf]

theorem kbdTag_of_wf {tag key : Byte} (hw : (Instr.kbdRspInvalid tag key).wf = true) : kbdTag tag = .invalid := by
  rcases kbdTag_cases tag with ⟨rfl, -⟩ | ⟨rfl, -⟩ | ⟨rfl, -⟩ | ⟨rfl, -⟩ | ⟨-, ht⟩
  case inr.inr.inr.inr => exact ht
  all_goals cases hw

theorem decodeKbdRsp_decodesFrame (bytes : List Byte) : DecodesFrame .kbdRsp bytes (decodeKbdRsp bytes) := by
  unfold decodeKbdRsp
  split
  case h_1 => exact decodesFrame_error
  case h_2 tag key rest =>
    rcases kbdTag_cases tag with ⟨rfl, ht⟩ | ⟨rfl, ht⟩ | ⟨rfl, ht⟩ | ⟨rfl, ht⟩ | ⟨hw, ht⟩ <;> rw [ht]
    case inr.inr.inr.inr => exact decodesFrame_ok rfl (hw key) rfl
    all_goals exact decodesFrame_ok rfl rfl rfl
  case h_3 => exact decodesFrame_error

theorem decodeKbdReq_decodesFrame (bytes : List Byte) : DecodesFrame .kbdReq bytes (decodeKbdReq bytes) := by
  unfold decodeKbdReq
  split
  case h_1 => exact decodesFrame_error
  case h_2 b rest => exact decodesFrame_ite (fun hb => decodesFrame_ok rfl rfl (hb ▸ rfl)) decodesFrame_error

theorem decodeKbdReq_encode {i : Instr} (hf : i.format = .kbdReq) : decodeKbdReq (encode i) = .ok (i, []) := by
  cases i with
  | kbdReq => rfl
  | _ => cases hf

theorem decodeKbdRsp_encode {i : Instr} (hf : i.format = .kbdRsp) (hw : i.wf = true) :
    decodeKbdRsp (encode i) = .ok (i, []) := by
  cases i with
  | kbdRspInvalid tag key => simp only [encode, Instr.code, Instr.operands, decodeKbdRsp, kbdTag_of_wf hw]
  | kbdRspNone | kbdRspDown | kbdRspHeld | kbdRspUp => rfl
  | _ => cases hf

/-! #### Whole frames -/

theorem decode_ok_iff {f : Format} {bytes : List Byte} {i : Instr} :
    decode f bytes = .ok i ↔ decodeFront f bytes = .ok (i, []) := by
  unfold decode
  split <;> simp_all

theorem decodeFront_decodesFrame (f : Format) (bytes : List Byte) : DecodesFrame f bytes (decodeFront f bytes) := by
  cases f with
  | hostReq => exact fun _ _ => decodeHost_ok_iff.mp
  | dispCmd => exact decodeDisp_decodesFrame bytes
  | kbdReq => exact decodeKbdReq_decodesFrame bytes
  | kbdRsp => exact decodeKbdRsp_decodesFrame bytes

/-- A whole frame decodes to the instruction it is the frame of, and nothing else decodes (R83, R96). -/
theorem decode_ok_iff_encode {f : Format} {bytes : List Byte} {i : Instr} :
    decode f bytes = .ok i ↔ i.wf = true ∧ i.format = f ∧ encode i = bytes := by
  rw [decode_ok_iff]
  constructor
  · intro h
    obtain ⟨hf, hw, front⟩ := decodeFront_decodesFrame f bytes i [] h
    exact ⟨hw, hf, (List.append_nil _).symm.trans front⟩
  · rintro ⟨hw, rfl, rfl⟩
    cases hf : i.format with
    | hostReq => exact decodeHost_ok_iff.mpr ⟨hf, hw, List.append_nil _⟩
    | dispCmd => exact decodeDisp_encode hf hw
    | kbdReq => exact decodeKbdReq_encode hf
    | kbdRsp => exact decodeKbdRsp_encode hf hw

/-- Settles O1: each format's decoder reads back what the encoder writes. -/
theorem everyFrameDecodesToItsInstruction : Obligations.EveryFrameDecodesToItsInstruction := by
  unfold Obligations.EveryFrameDecodesToItsInstruction
  intro i hw
  exact decode_ok_iff_encode.mpr ⟨hw, rfl, rfl⟩

/-- Settles O2: each format's decoder answers an instruction only to bytes that begin with its frame. -/
theorem decodedFrameIsTheEncodedOne : Obligations.DecodedFrameIsTheEncodedOne := by
  unfold Obligations.DecodedFrameIsTheEncodedOne
  intro f bytes i h
  exact decode_ok_iff_encode.mp h

/-- Settles O3: each is the frame of its instruction. -/
theorem writtenFramesDecode : Obligations.WrittenFramesDecode := by
  unfold Obligations.WrittenFramesDecode
  simp only [decode_ok_iff_encode]
  decide

/-! #### Rejected frames (R93, log 9) -/

theorem submit_rejected {r : Request} {e : DecodeError} (hf : r.chan.format = .hostReq)
    (h : decodeHost r.bytes = .error e) (s : State) :
    (submit r s).outcome = rejectFrame e r.chan { s with port := r.chan.port } := by
  simp only [submit, decode, hf, decodeFront, h, Fetched.outcome]

theorem hostPort_format {c : Channel} (hc : c = .hopD ∨ c = .hopK) : c.format = .hostReq := by
  rcases hc with rfl | rfl <;> rfl

theorem rejectFrame_unassigned {c : Channel} (hc : c.format = .hostReq) (sel : Byte) (s : State) :
    rejectFrame (.unassigned sel) c s = runHost sel (Plan.answer (Response.illegal sel)) s := by
  simp only [rejectFrame, hc]

theorem rejectFrame_short {c : Channel} (hc : c.format = .hostReq) {e : DecodeError}
    (he : e = .empty ∨ ∃ sel, e = .short sel) (s : State) : rejectFrame e c s = .fault .shortFrame := by
  rcases he with rfl | ⟨sel, rfl⟩ <;> simp only [rejectFrame, hc]

/-- A block that is idle on both ports is ready on any. -/
theorem ready_of_idle {s : State} {p : Port} (hp : s.port = p) (hg : s.grain = .whole) (hd : s.seqD = .idle)
    (hk : s.seqK = .idle) : s.Ready p := by
  refine ⟨hp, (portIsBusy_eq_false s).mpr ?_, hg⟩
  cases hq : s.port <;> simp [State.Busy, hd, hk]

/-- Settles O6: an unassigned or misplaced selector is a bare reply, and what is cut off from a frame is short. -/
theorem illegalSelectorsAndShortFrames : Obligations.IllegalSelectorsAndShortFrames := by
  unfold Obligations.IllegalSelectorsAndShortFrames
  refine ⟨?unassigned, ?misplaced, ?short⟩
  case unassigned =>
    intro s c sel ops rs hc hg hd hk hp he
    have hf := hostPort_format hc
    rw [step_submits hg hd hk hp, submit_rejected hf he, rejectFrame_unassigned hf]
    exact runHost_answer (ready_of_idle rfl hg hd hk)
  case misplaced =>
    intro i s p hf hr ha
    rw [exec_host hf, acceptedPlan, hr.1, ha]
    exact runHost_answer hr
  case short =>
    intro s c i n rs hc hg hd hk hf hw hn hp
    have hcf := hostPort_format hc
    obtain ⟨e, he, hs⟩ := decodeHost_take hf hw hn
    rw [step_submits hg hd hk hp, submit_rejected hcf he, rejectFrame_short hcf hs]

/-! #### Display commands run alone (R150, R152, log 4) -/

/-- A row that sends a command shows its frame on the bench. -/
theorem benchRuns_of_sendCommand {i : Instr} {op : Byte} {data : List Byte} {s : State}
    (he : exec i s = innerD (sendCommand s.cfg op data none) s) :
    s.BenchRuns i (frameEvents s.cfg.bufCap op data) (chunks s.cfg.bufCap 1 data) := by
  rw [← shown_sendCommand s.cfg op data none]
  refine benchRuns_of_moves he ?_
  rw [shown_sendCommand, applyAll_sendCommand]

theorem benchRuns_memoryWrite (px : List Half) (s : State) :
    s.BenchRuns (.memoryWrite px) (memWriteEvents s.cfg.bufCap (pairBytes px))
      (chunks s.cfg.bufCap 2 (pairBytes px)) := by
  rw [← shown_memWrite]
  refine benchRuns_of_moves rfl ?_
  rw [shown_memWrite, applyAll_memWrite]

/-- Settles O49: each row is the command of its opcode with its operands, and memory-write also the stream. -/
theorem displayCommandsSendTheirFrame : Obligations.DisplayCommandsSendTheirFrame := by
  unfold Obligations.DisplayCommandsSendTheirFrame
  intro s first last px d0 d1 d2 d3
  refine ⟨?_, ?_, ?_, ?_, ?_, ?_, ?_, ?_, ?_, ?_, ?_, ?_, ?_, benchRuns_memoryWrite px s⟩
  all_goals exact benchRuns_of_sendCommand rfl

end Sys2Proof.Machine

/-! ### The Packed Color

The fields of a colour do not overlap, so `packed_eq_sum` reads it as a number; a truncated channel and a
masked one fit their fields. The rest is a bare reply on either port. -/

namespace Sys2Proof.Machine

/-- A plan that is a bare reply, on a ready port that takes the operation. -/
theorem exec_ready_answer {i : Instr} {s : State} {p : Port} {r : Response} (hf : i.format = .hostReq)
    (ha : acceptedOn i p = true) (hp : hostPlan i s = Plan.answer r) (h : s.Ready p) :
    exec i s = .next (s.replied p r) := by
  rw [exec_host hf, acceptedPlan_of_accepted (h.1.symm ▸ ha), hp, runHost_answer h]

theorem exec_toPacked_ready {s : State} {p : Port} (h : s.Ready p) (r g b a : Byte) :
    exec (.toPacked r g b a) s = .next (s.replied p (Response.done (halfBytes (toPackedColor r g b)))) :=
  exec_ready_answer rfl rfl rfl h

theorem exec_makePacked_ready {s : State} {p : Port} (h : s.Ready p) (r g b : Byte) :
    exec (.makePacked r g b) s = .next (s.replied p (Response.done (halfBytes (makePackedColor r g b)))) :=
  exec_ready_answer rfl rfl rfl h

theorem or_shiftLeft_of_lt {low k : Nat} (h : low < 2 ^ k) (high : Nat) : low ||| high <<< k = low + 2 ^ k * high := by
  rw [Nat.or_comm, ← Nat.shiftLeft_add_eq_or_of_lt h, Nat.shiftLeft_eq, Nat.mul_comm, Nat.add_comm]

/-- Channels that fit their fields are the digits of the colour (30_encoding.md R88); of blue, the top field, what does
not fit falls off on both sides. -/
theorem packed_eq_sum {red green blue : Byte} (hr : red.toNat < 32) (hg : green.toNat < 64) :
    packed red green blue = BitVec.ofNat 16 (red.toNat + 32 * green.toNat + 2048 * blue.toNat) := by
  have low : red.toNat ||| green.toNat <<< 5 = red.toNat + 32 * green.toNat := or_shiftLeft_of_lt hr _
  have digits : red.toNat ||| green.toNat <<< 5 ||| blue.toNat <<< 11 =
      red.toNat + 32 * green.toNat + 2048 * blue.toNat := by
    rw [low]
    exact or_shiftLeft_of_lt (by omega) _
  have wide (c : Byte) : c.toNat % 65536 = c.toNat := Nat.mod_eq_of_lt (by omega)
  apply BitVec.eq_of_toNat_eq
  rw [BitVec.toNat_ofNat, ← digits]
  simp [packed, Config.greenOffset, Config.blueOffset, Nat.or_mod_two_pow (n := 16), wide]

theorem byte_shiftRight_toNat (c : Byte) (k : Nat) : (c >>> k).toNat = c.toNat / 2 ^ k := by
  rw [BitVec.toNat_ushiftRight, Nat.shiftRight_eq_div_pow]

theorem byte_and_mask_toNat {mask : Byte} {k : Nat} (h : mask.toNat = 2 ^ k - 1) (c : Byte) :
    (c &&& mask).toNat = c.toNat % 2 ^ k := by
  rw [BitVec.toNat_and, h, Nat.and_two_pow_sub_one_eq_mod]

theorem toPackedColor_eq_sum (r g b : Byte) :
    toPackedColor r g b = BitVec.ofNat 16 (r.toNat / 8 + 32 * (g.toNat / 4) + 2048 * (b.toNat / 8)) := by
  have red : (r >>> Config.redShift).toNat = r.toNat / 8 := byte_shiftRight_toNat r 3
  have green : (g >>> Config.greenShift).toNat = g.toNat / 4 := byte_shiftRight_toNat g 2
  have blue : (b >>> Config.blueShift).toNat = b.toNat / 8 := byte_shiftRight_toNat b 3
  rw [toPackedColor, packed_eq_sum (by omega) (by omega), red, green, blue]

theorem makePackedColor_eq_sum (r g b : Byte) :
    makePackedColor r g b = BitVec.ofNat 16 (r.toNat % 32 + 32 * (g.toNat % 64) + 2048 * (b.toNat % 32)) := by
  have red : (r &&& Config.redMask).toNat = r.toNat % 32 := byte_and_mask_toNat (k := 5) rfl r
  have green : (g &&& Config.greenMask).toNat = g.toNat % 64 := byte_and_mask_toNat (k := 6) rfl g
  have blue : (b &&& Config.blueMask).toNat = b.toNat % 32 := byte_and_mask_toNat (k := 5) rfl b
  rw [makePackedColor, packed_eq_sum (by omega) (by omega), red, green, blue]

theorem makePackedColor_of_quantized (r g b : Byte) :
    makePackedColor (r >>> 3) (g >>> 2) (b >>> 3) = toPackedColor r g b := by
  have red : (r >>> 3).toNat % 32 = r.toNat / 8 := by rw [byte_shiftRight_toNat]; omega
  have green : (g >>> 2).toNat % 64 = g.toNat / 4 := by rw [byte_shiftRight_toNat]; omega
  have blue : (b >>> 3).toNat % 32 = b.toNat / 8 := by rw [byte_shiftRight_toNat]; omega
  rw [makePackedColor_eq_sum, toPackedColor_eq_sum, red, green, blue]

/-- Settles O13: the plan is a bare reply, and a truncated channel fits its field. -/
theorem toPackedTruncatesAndPacks : Obligations.ToPackedTruncatesAndPacks := by
  unfold Obligations.ToPackedTruncatesAndPacks
  intro r g b a s p h
  rw [exec_toPacked_ready h, toPackedColor_eq_sum]
  rfl

/-- Settles O14: the plan is a bare reply, and a masked channel fits its field. -/
theorem makePackedMasksAndPacks : Obligations.MakePackedMasksAndPacks := by
  unfold Obligations.MakePackedMasksAndPacks
  intro r g b s p h
  rw [exec_makePacked_ready h, makePackedColor_eq_sum]
  rfl

/-- Settles O15: the reply does not read alpha, and a mask keeps a channel that was truncated to its field. -/
theorem toPackedIsMakePackedOfQuantized : Obligations.ToPackedIsMakePackedOfQuantized := by
  unfold Obligations.ToPackedIsMakePackedOfQuantized
  intro r g b a a' s p h
  constructor
  · rw [exec_toPacked_ready h, exec_toPacked_ready h]
  · rw [exec_makePacked_ready h, makePackedColor_of_quantized, exec_toPacked_ready h]

end Sys2Proof.Machine

/-! ### The bus transport (R131 to R135, R137)

`chunks_lengths` says how long the chunks of a payload are, `runs_stream` and `runs_writeByte` what an operation does;
that it sends its chunks from the first on, all of them unless one fails, is `sends_of_runs`. -/

namespace Sys2Proof.Machine

/-! #### The lengths of chunks -/

/-- The lengths that a payload of `len` bytes is split into (R131). -/
def chunkLengthsOf (c len : Nat) : List Nat := List.replicate (len / c) c ++ (if len % c = 0 then [] else [len % c])

theorem chunkLengthsOf_lt {c len : Nat} (h : len < c) : chunkLengthsOf c len = if len = 0 then [] else [len] := by
  rw [chunkLengthsOf, Nat.div_eq_of_lt h, Nat.mod_eq_of_lt h]
  rfl

theorem chunkLengthsOf_add {c : Nat} (hc : 0 < c) (len : Nat) :
    chunkLengthsOf c (c + len) = c :: chunkLengthsOf c len := by
  rw [chunkLengthsOf, Nat.add_div_left len hc, Nat.add_mod_left]
  rfl

/-- The bytes held back count as the first of the payload. -/
theorem chunksFrom_lengths {c : Nat} (bs pend : List Byte) (hp : pend.length < c) :
    (chunksFrom c bs pend pend.length).map List.length = chunkLengthsOf c (pend.length + bs.length) := by
  induction bs generalizing pend with
  | nil =>
    rw [List.length_nil, Nat.add_zero, chunkLengthsOf_lt hp]
    cases pend <;> simp [chunksFrom]
  | cons b bs ih =>
    have total : pend.length + (b :: bs).length = pend.length + 1 + bs.length := by rw [List.length_cons]; omega
    rw [chunksFrom, total]
    split
    case isTrue full =>
      rw [full, chunkLengthsOf_add (by omega), List.map_cons, List.length_reverse, List.length_cons, full]
      exact congrArg _ ((ih [] (by rw [List.length_nil]; omega)).trans (by rw [List.length_nil, Nat.zero_add]))
    case isFalse more => exact ih (b :: pend) (by rw [List.length_cons]; omega)

theorem chunkCapacity_pos {cap unit : Nat} (hu : 0 < unit) (hc : unit ≤ cap) : 0 < unit * (cap / unit) :=
  Nat.mul_pos hu (Nat.div_pos hc hu)

theorem chunks_lengths {cap unit : Nat} (hu : 0 < unit) (hc : unit ≤ cap) (bs : List Byte) :
    (chunks cap unit bs).map List.length = chunkLengthsOf (unit * (cap / unit)) bs.length := by
  rw [← Nat.zero_add bs.length]
  exact chunksFrom_lengths bs [] (chunkCapacity_pos hu hc)

/-- A payload of whole units is split into chunks of whole units. -/
theorem chunks_dvd {cap unit : Nat} (hu : 0 < unit) (hc : unit ≤ cap) {bs : List Byte} (h : unit ∣ bs.length) :
    ∀ c ∈ chunks cap unit bs, unit ∣ c.length := by
  intro c hm
  have whole : unit ∣ unit * (cap / unit) := Nat.dvd_mul_right ..
  have len : c.length ∈ chunkLengthsOf (unit * (cap / unit)) bs.length :=
    chunks_lengths hu hc bs ▸ List.mem_map_of_mem hm
  rcases List.mem_append.mp len with full | last
  · exact List.eq_of_mem_replicate full ▸ whole
  · split at last
    · cases last
    · exact List.mem_singleton.mp last ▸ (Nat.dvd_mod_iff whole).mpr h

/-- Settles O20, by induction on the payload. -/
theorem chunkLengths : Obligations.ChunkLengths := by
  unfold Obligations.ChunkLengths
  intro cap unit bs hu hc
  exact chunks_lengths hu hc bs

/-! #### The operations -/

theorem runs_writeByte {s : State} (h : s.Ready .hopD) (b : Byte) :
    s.Runs (.writeByte b) [.xfer [b]] ((s.shows [.xfer [b]] []).filled 0) := by
  have left : applyAll [.send b none] s = (s.shows [.xfer [b]] []).filled 0 := by
    simp [Act.apply, sent, State.shows, State.filled, levelAfter, stageAll, xferCount]
  have runs : s.Runs (.writeByte b) [.xfer [b]] (applyAll [.send b none] s) :=
    runs_of_plan (plan := fun _ => Plan.run [.send b none] []) rfl h rfl
  rwa [left] at runs

/-- An operation that is one stream. -/
theorem runs_stream {i : Instr} {sel : Byte} {unit : Nat} {bytes : List Byte} {s : State}
    (he : exec i s = hostOp sel onD (fun s => Plan.run (streamActs s.cfg unit bytes none) []) s) (h : s.Ready .hopD) :
    s.Runs i ((chunks s.cfg.bufCap unit bytes).map .xfer)
      ((s.shows ((chunks s.cfg.bufCap unit bytes).map .xfer) (chunks s.cfg.bufCap unit bytes)).filled 0) := by
  have runs := runs_of_plan (acts := streamActs s.cfg unit bytes none) he h rfl
  rwa [shown_stream, applyAll_stream] at runs

/-- Settles O16: the plan is one move, which does not use TB (log 10). -/
theorem writeByteIsOneTransaction : Obligations.WriteByteIsOneTransaction := by
  unfold Obligations.WriteByteIsOneTransaction
  intro b s h
  exact runs_writeByte h b

/-- Settles O17: the plan is the stream of the bytes. -/
theorem writeBytesStreamsItsBytes : Obligations.WriteBytesStreamsItsBytes := by
  unfold Obligations.WriteBytesStreamsItsBytes
  intro bs s h
  exact runs_stream rfl h

/-- Settles O18: the plan is the stream of `repeatHalf`, which is the copies. -/
theorem writeRep16StreamsItsCopies : Obligations.WriteRep16StreamsItsCopies := by
  unfold Obligations.WriteRep16StreamsItsCopies
  intro v n s h
  exact runs_stream rfl h

/-- Settles O19: the plan is the stream of `pairBytes`, which is the colours. -/
theorem writePackedArrayStreamsItsColours : Obligations.WritePackedArrayStreamsItsColours := by
  unfold Obligations.WritePackedArrayStreamsItsColours
  intro cs s h
  exact runs_stream rfl h

/-! #### What the operations send, whatever the bus answers -/

/-- From `s` to `t` these transactions were made from the first on, all of them where the reply is `OK`. -/
def State.Sends (s t : State) (cs : List (List Byte)) : Prop :=
  ∃ xs, xs <+: cs ∧ t.traceD = s.traceD ++ xs.map .xfer ∧ (t.rspD = s.rspD ++ [Response.done []] → xs = cs)

theorem throughXfer_xfers_eq_take (cs : List (List Byte)) (j : Nat) :
    throughXfer (cs.map .xfer) j = (cs.take (j + 1)).map .xfer := by
  induction cs generalizing j with
  | nil => rfl
  | cons c cs ih =>
    cases j with
    | zero => rfl
    | succ j => exact congrArg _ (ih j)

theorem sends_of_runs {i : Instr} {s t done : State} {cs : List (List Byte)} (runs : s.Runs i (cs.map .xfer) done)
    (trace : done.traceD = s.traceD ++ cs.map .xfer) (h : exec i s = .next t) : s.Sends t cs := by
  rcases runs_cases runs h with rfl | ⟨j, e, d, -, traceD, rspD, -⟩
  · exact ⟨cs, List.prefix_rfl, trace, fun _ => rfl⟩
  · refine ⟨cs.take (j + 1), List.take_prefix .., throughXfer_xfers_eq_take cs j ▸ traceD, fun ok => ?_⟩
    rw [rspD] at ok
    cases List.append_cancel_left ok

@[simp] theorem repeatHalf_length (v : Half) (n : Nat) : (repeatHalf v n).length = 2 * n := by
  simp [repeatHalf, halfBytes, Nat.mul_comm]

/-- What the payload of a transport operation is cut into. -/
structure Cuts (cap : Nat) (payload : List Byte) (cs : List (List Byte)) : Prop where
  fits : ∀ c ∈ cs, 1 ≤ c.length ∧ c.length ≤ cap
  joined : cs.flatten = payload

theorem chunks_cuts (cfg : Params) {unit : Nat} (hu : unit = 1 ∨ unit = 2) (bytes : List Byte) :
    Cuts cfg.bufCap bytes (chunks cfg.bufCap unit bytes) where
  fits c hc :=
    have ⟨nonempty, short⟩ := chunks_bounds cfg unit hu bytes c hc
    ⟨List.length_pos_iff.mpr nonempty, short⟩
  joined := chunks_flatten ..

theorem single_cuts (cfg : Params) (b : Byte) : Cuts cfg.bufCap [b] [[b]] where
  fits c hc := by
    have two := bufCap_ge_two cfg
    cases List.mem_singleton.mp hc
    exact ⟨le_rfl, by rw [List.length_singleton]; omega⟩
  joined := rfl

/-- The chunks of a 16-bit payload have even length. -/
theorem chunks_even (cfg : Params) {bytes : List Byte} {n : Nat} (h : bytes.length = 2 * n) :
    ∀ c ∈ chunks cfg.bufCap 2 bytes, c.length % 2 = 0 := fun c hc =>
  Nat.mod_eq_zero_of_dvd (chunks_dvd Nat.two_pos (bufCap_ge_two cfg) (h ▸ Nat.dvd_mul_right 2 n) c hc)

/-- Settles O21: the transactions made are the first of the payload's chunks, and a chunk of 16-bit values is of whole
values. -/
theorem transportInvariants : Obligations.TransportInvariants := by
  unfold Obligations.TransportInvariants
  intro i payload s t hr h hi
  obtain ⟨cs, ⟨xs, first, trace, all⟩, cuts, even⟩ : ∃ cs, s.Sends t cs ∧ Cuts s.cfg.bufCap payload cs ∧
      (((∃ v n, i = .writeRep16 v n) ∨ ∃ cs, i = .writePackedArray cs) → ∀ x ∈ cs, x.length % 2 = 0) := by
    rcases hi with ⟨b, rfl, rfl⟩ | ⟨bs, rfl, rfl⟩ | ⟨v, n, rfl, rfl⟩ | ⟨colours, rfl, rfl⟩
    · exact ⟨[[b]], sends_of_runs (runs_writeByte hr b) rfl h, single_cuts s.cfg b, by simp⟩
    · exact ⟨_, sends_of_runs (runs_stream rfl hr) rfl h, chunks_cuts s.cfg (.inl rfl) payload,
        by simp⟩
    · exact ⟨_, sends_of_runs (runs_stream rfl hr) rfl h, chunks_cuts s.cfg (.inr rfl) _,
        fun _ => chunks_even s.cfg (repeatHalf_length ..)⟩
    · exact ⟨_, sends_of_runs (runs_stream rfl hr) rfl h, chunks_cuts s.cfg (.inr rfl) _,
        fun _ => chunks_even s.cfg (pairBytes_length colours)⟩
  exact ⟨xs, trace, fun x hx => cuts.fits x (first.subset hx), cuts.joined ▸ first.flatten,
    fun ok => (congrArg List.flatten (all ok)).trans cuts.joined, fun wide x hx => even wide x (first.subset hx)⟩

end Sys2Proof.Machine

/-! ### A failure in an operation that begins with `SetWindow` (R153, R239 (a), (b))

`performAll_windowFailed` says what the window cache is, whatever moves outside a window frame follow; the drawing
primitives and `SET_WINDOW` itself are its two uses. -/

namespace Sys2Proof.Machine

/-! #### The first failure among the answers to come -/

/-- The `j`-th transaction from here is the first to fail. -/
def State.FirstFailure (s : State) (j : Nat) (e : BusErr) (d : FailDraw) : Prop := s.BusOk j ∧ s.busAt j = .fail e d

theorem busAt_applyAll (acts : List Act) (s : State) (j : Nat) :
    (applyAll acts s).busAt j = s.busAt (transactions acts + j) := by
  induction acts generalizing s with
  | nil => exact congrArg s.busAt (Nat.zero_add j).symm
  | cons a acts ih =>
    rw [applyAll_cons, ih, busAt_apply, transactions, transactions, List.countP_cons]
    congr 1
    omega

section
variable {as bs : List Act} {s : State} {j : Nat} {e : BusErr} {d : FailDraw}

/-- Moves whose transactions all succeeded leave the failure as many places nearer. -/
theorem State.FirstFailure.after (h : s.FirstFailure (transactions as + j) e d) :
    (applyAll as s).FirstFailure j e d := by
  obtain ⟨ok, fail⟩ := h
  exact ⟨fun i hi => (busAt_applyAll ..).trans (ok _ (by omega)), (busAt_applyAll ..).trans fail⟩

theorem performAll_append_of_busOk (h : s.BusOk (transactions as)) :
    performAll (as ++ bs) s = performAll bs (applyAll as s) := by
  simp only [performAll_append, performAll_ok h]

/-- Nothing follows a failure (R237). -/
theorem performAll_append_of_fails (hj : j < transactions as) (h : s.FirstFailure j e d) :
    performAll (as ++ bs) s = performAll as s := by
  obtain ⟨before, a, after, x, -, -, -, hp⟩ := performAll_fail_at hj h.1 h.2
  simp only [performAll_append, hp]

/-! #### Moves of one frame -/

/-- The move writes no cache pair itself, and its transaction, if it makes one, belongs to the window frame `f`. -/
def Act.InFrame (f : Option CacheWrite) : Act → Prop
  | .send _ g => g = f
  | .chunk _ g => g = f
  | .cache _ => False
  | _ => True

theorem stream_inFrame (cfg : Params) (unit : Nat) (bytes : List Byte) (f : Option CacheWrite) :
    ∀ a ∈ streamActs cfg unit bytes f, a.InFrame f := by
  intro a ha
  rcases List.mem_cons.mp ha with rfl | ha
  · trivial
  · obtain ⟨c, -, rfl⟩ := List.mem_map.mp ha
    rfl

theorem sendCommand_inFrame (cfg : Params) (op : Byte) (data : List Byte) (f : Option CacheWrite) :
    ∀ a ∈ sendCommand cfg op data f, a.InFrame f := by
  simp only [sendCommand, List.forall_mem_append, List.forall_mem_cons]
  exact ⟨⟨⟨trivial, trivial, rfl, trivial, nofun⟩, stream_inFrame cfg 1 data f⟩, trivial, nofun⟩

theorem memWrite_inFrame (cfg : Params) (bytes : List Byte) : ∀ a ∈ memWriteStream cfg bytes, a.InFrame none := by
  simp only [memWriteStream, List.forall_mem_append, List.forall_mem_singleton]
  exact ⟨⟨⟨sendCommand_inFrame cfg _ _ none, trivial⟩, stream_inFrame cfg 2 bytes none⟩, trivial⟩

theorem apply_window {f : Option CacheWrite} {a : Act} (ha : a.InFrame f) (s : State) :
    (a.apply s).window = s.window := by
  cases a with
  | drive pin level => cases pin <;> rfl
  | cache c => exact ha.elim
  | _ => rfl

theorem applyAll_keeps_window {f : Option CacheWrite} {acts : List Act} (ha : ∀ a ∈ acts, a.InFrame f) (s : State) :
    (applyAll acts s).window = s.window := by
  induction acts generalizing s with
  | nil => rfl
  | cons a acts ih =>
    obtain ⟨head, tail⟩ := List.forall_mem_cons.mp ha
    rw [applyAll_cons, ih tail, apply_window head]

theorem writeCache_window_congr {s t : State} (h : s.window = t.window) (c : CacheWrite) :
    (writeCache c s).window = (writeCache c t).window := by
  simp only [State.window, Prod.mk.injEq] at h
  obtain ⟨colStart, colEnd, rowStart, rowEnd⟩ := h
  cases c <;> simp only [State.window, writeCache, *]

/-- The draw of the failing frame's pair, as far as the window cache goes (R239 (b)). -/
theorem drawAfterFail_window (c : CacheWrite) (d : FailDraw) (s : State) :
    (drawAfterFail (some c) d s).window = if d.cacheNew then (writeCache c s).window else s.window := by
  simp only [drawAfterFail]
  split
  · exact writeCache_window_congr (s := { s with sel := d.sel, dc := d.dc }) (t := s) rfl c
  · rfl

theorem drawAfterFail_window_congr {s t : State} (h : s.window = t.window) (f : Option CacheWrite) (d : FailDraw) :
    (drawAfterFail f d s).window = (drawAfterFail f d t).window := by
  cases f with
  | none => exact h
  | some c => rw [drawAfterFail_window, drawAfterFail_window, writeCache_window_congr h, h]

/-- A failure in a frame draws that frame's pair and leaves the other (R239 (b)). -/
theorem performAll_window_of_fails {f : Option CacheWrite} (ha : ∀ a ∈ as, a.InFrame f) (hj : j < transactions as)
    (h : s.FirstFailure j e d) : (performAll as s).1.window = (drawAfterFail f d s).window := by
  obtain ⟨before, a, after, x, rfl, -, payload, hp⟩ := performAll_fail_at hj h.1 h.2
  simp only [List.forall_mem_append, List.forall_mem_cons] at ha
  obtain ⟨hbefore, hframe, -⟩ := ha
  have frame : a.frame = f := by
    cases a with
    | send | chunk => exact hframe
    | _ => cases payload
  have ready : (a.ready (applyAll before s)).window = s.window := by
    rw [← applyAll_keeps_window hbefore s]
    cases a <;> rfl
  rw [hp, ← frame]
  exact drawAfterFail_window_congr (s := sent x (a.ready (applyAll before s))) ready a.frame d

/-! #### The window -/

/-- A failure in the half of `SetWindow` for one axis is one in that axis's frame. -/
theorem performAll_axis_of_fails {p : Prop} [Decidable p] {cfg : Params} {op : Byte} {data : List Byte} {c : CacheWrite}
    (hj : j < transactions (if p then [] else sendCommand cfg op data (some c) ++ [.cache c]))
    (h : s.FirstFailure j e d) :
    (performAll (if p then [] else sendCommand cfg op data (some c) ++ [.cache c]) s).1.window =
      (drawAfterFail (some c) d s).window := by
  split at hj
  case isTrue => cases hj
  case isFalse miss =>
    rw [transactions_append] at hj
    rw [if_neg miss, performAll_append_of_fails hj h]
    exact performAll_window_of_fails (sendCommand_inFrame cfg op data (some c)) hj h

end

theorem transactions_column (s : State) (a b : Half) :
    transactions (columnActs s a b) = xferCount (columnEvents s a b) := by
  rw [← xferCount_shown, shown_column]

theorem transactions_row (s : State) (a b : Half) : transactions (rowActs s a b) = xferCount (rowEvents s a b) := by
  rw [← xferCount_shown, shown_row]

theorem applyAll_column_window (s : State) (a b : Half) :
    (applyAll (columnActs s a b) s).window = (writeCache (.col a b) s).window := by
  rw [applyAll_column s s a b rfl]
  rfl

theorem applyAll_column_rows (s : State) (a b : Half) :
    ((applyAll (columnActs s a b) s).rowStart, (applyAll (columnActs s a b) s).rowEnd) = (s.rowStart, s.rowEnd) := by
  rw [applyAll_column s s a b rfl]
  rfl

theorem applyAll_row_window {s t : State} (a b : Half) (h : (t.rowStart, t.rowEnd) = (s.rowStart, s.rowEnd)) :
    (applyAll (rowActs s a b) t).window = (writeCache (.row a b) t).window := by
  rw [applyAll_row s t a b h]
  rfl

section
variable {s t : State} {x y w h : Int} {j : Nat} {d : FailDraw}

/-- The column frame failed: its pair is drawn, the row pair is still the old one. -/
theorem windowFailed_in_columns (hj : j < xferCount (columnEvents s (trunc16 x) (trunc16 (x + w - 1))))
    (ht : t.window = (drawAfterFail (some (.col (trunc16 x) (trunc16 (x + w - 1)))) d s).window) :
    s.WindowFailed t x y w h j d := by
  rw [drawAfterFail_window] at ht
  simp only [State.WindowFailed, hj, true_and, true_or, if_true]
  cases hd : d.cacheNew <;> simp_all [State.window, writeCache]

/-- The row frame failed, after the column pair was cached. -/
theorem windowFailed_in_rows (hj : j < xferCount (rowEvents s (trunc16 y) (trunc16 (y + h - 1))))
    (ht : t.window = (drawAfterFail (some (.row (trunc16 y) (trunc16 (y + h - 1)))) d
      (writeCache (.col (trunc16 x) (trunc16 (x + w - 1))) s)).window) :
    s.WindowFailed t x y w h (xferCount (columnEvents s (trunc16 x) (trunc16 (x + w - 1))) + j) d := by
  rw [drawAfterFail_window] at ht
  simp only [State.WindowFailed, Nat.not_lt.mpr (Nat.le_add_right ..), Nat.add_lt_add_iff_left, hj, false_and, true_and,
    false_or, if_false]
  cases hd : d.cacheNew <;> simp_all [State.window, writeCache]

/-- The failure came after both pairs were cached. -/
theorem windowFailed_after_window
    (hj : xferCount (columnEvents s (trunc16 x) (trunc16 (x + w - 1))) +
      xferCount (rowEvents s (trunc16 y) (trunc16 (y + h - 1))) ≤ j)
    (ht : t.window = (s.windowSet x y w h).window) : s.WindowFailed t x y w h j d := by
  simp only [State.window, Prod.mk.injEq] at ht
  obtain ⟨colStart, colEnd, rowStart, rowEnd⟩ := ht
  simp only [State.WindowFailed]
  rw [if_neg (by omega), if_neg (by omega), colStart, colEnd, rowStart, rowEnd]
  exact ⟨rfl, rfl⟩

end

/-- The window cache after an operation that begins with `SetWindow` and fails: the pair of the frame that failed is as
drawn, one before it is new, one after it old. -/
theorem performAll_windowFailed {s : State} {x y w h : Int} {more : List Act} {j : Nat} {e : BusErr} {d : FailDraw}
    (hm : ∀ a ∈ more, a.InFrame none) (hj : j < transactions (windowActs s x y w h ++ more))
    (hf : s.FirstFailure j e d) :
    s.WindowFailed (performAll (windowActs s x y w h ++ more) s).1 x y w h j d := by
  have cols := applyAll_column_window s (trunc16 x) (trunc16 (x + w - 1))
  rw [windowActs, List.append_assoc] at hj ⊢
  by_cases hcol : j < transactions (columnActs s (trunc16 x) (trunc16 (x + w - 1)))
  · rw [performAll_append_of_fails hcol hf]
    exact windowFailed_in_columns (transactions_column .. ▸ hcol) (performAll_axis_of_fails hcol hf)
  obtain ⟨k, rfl⟩ := Nat.exists_eq_add_of_le (Nat.le_of_not_lt hcol)
  rw [transactions_append, Nat.add_lt_add_iff_left] at hj
  rw [performAll_append_of_busOk fun i hi => hf.1 i (by omega)]
  by_cases hrow : k < transactions (rowActs s (trunc16 y) (trunc16 (y + h - 1)))
  · rw [performAll_append_of_fails hrow hf.after, transactions_column]
    exact windowFailed_in_rows (transactions_row .. ▸ hrow)
      ((performAll_axis_of_fails hrow hf.after).trans (drawAfterFail_window_congr cols _ d))
  obtain ⟨m, rfl⟩ := Nat.exists_eq_add_of_le (Nat.le_of_not_lt hrow)
  rw [transactions_append, Nat.add_lt_add_iff_left] at hj
  rw [performAll_append_of_busOk fun i hi => hf.after.1 i (by omega), transactions_column, transactions_row]
  refine windowFailed_after_window (by omega) ?_
  rw [performAll_window_of_fails hm hj hf.after.after]
  exact (applyAll_row_window _ _ (applyAll_column_rows ..)).trans (writeCache_window_congr cols _)

/-- The response writes no cache pair. -/
theorem windowFailed_respondD {s t : State} {x y w h : Int} {j : Nat} {d : FailDraw} (r : Response) :
    s.WindowFailed (respondD r t) x y w h j d ↔ s.WindowFailed t x y w h j d := Iff.rfl

theorem settleD_windowFailed {s : State} {x y w h : Int} {more : List Act} {reply : Response} {j : Nat} {e : BusErr}
    {d : FailDraw} (hm : ∀ a ∈ more, a.InFrame none) (hj : j < transactions (windowActs s x y w h ++ more))
    (hf : s.FirstFailure j e d) :
    s.WindowFailed (settleD ⟨windowActs s x y w h ++ more, false, reply⟩ s) x y w h j d := by
  rw [settleD_eq, windowFailed_respondD]
  exact performAll_windowFailed hm hj hf

theorem settleD_paint_windowFailed {s : State} {x y w h : Int} {bytes : List Byte} {j : Nat} {e : BusErr} {d : FailDraw}
    (hj : j < transactions (paintActs s x y w h bytes)) (hf : s.FirstFailure j e d) :
    s.WindowFailed (settleD (Plan.run (paintActs s x y w h bytes) []) s) x y w h j d :=
  settleD_windowFailed (memWrite_inFrame s.cfg bytes) hj hf

end Sys2Proof.Machine

/-! ### The drawing primitives (R156 to R161)

Each plan is brought to one form, a no-op under a condition and else a window and a stream; `draws_or_drops` says once
what an operation of that form does. -/

namespace Sys2Proof.Machine

section
variable {i : Instr} {sel : Byte} {plan : State → Plan} {s : State} {x y w h : Int} {bytes : List Byte}

theorem draws_of_plan (he : exec i s = hostOp sel onD plan s) (hr : s.Ready .hopD)
    (hp : plan s = Plan.run (paintActs s x y w h bytes) []) : s.Draws i x y w h bytes := by
  have runs := runs_of_plan he hr hp
  rw [shown_paint, applyAll_paint] at runs
  refine ⟨runs, fun j e d t hj hok hf ht => ?_⟩
  rw [he, hostOp_onD hr, hp] at ht
  cases ht
  exact settleD_paint_windowFailed (transactions_paint s x y w h bytes ▸ hj) ⟨hok, hf⟩

/-- A primitive that is dropped under a condition and else drawn. -/
theorem draws_or_drops {dropped : Prop} [Decidable dropped] (he : exec i s = hostOp sel onD plan s)
    (hr : s.Ready .hopD)
    (hp : plan s = if dropped then Plan.noOp else Plan.run (paintActs s x y w h bytes) []) :
    if dropped then exec i s = .next (respondD (Response.done []) s) else s.Draws i x y w h bytes := by
  split
  case isTrue drop =>
    rw [he, hostOp_onD hr, hp, if_pos drop]
    rfl
  case isFalse draw => exact draws_of_plan he hr (hp.trans (if_neg draw))

end

/-- The endpoints as the model orders them are their minimum and maximum (R158, R159). -/
theorem lineSpan_eq (inclusive : Bool) (p q dim : Int) :
    lineSpan inclusive p q dim = ((lineEnds p q dim).1, lineLength inclusive p q dim) := by
  simp only [lineSpan, lineLength, lineEnds]
  generalize clamp p 0 (dim - 1) = a, clamp q 0 (dim - 1) = b
  have ordered : (if a > b then (b, a) else (a, b)) = (min a b, max a b) := by
    split <;> refine Prod.ext ?_ ?_ <;> simp only <;> omega
  rw [ordered]
  cases inclusive
  · exact Prod.ext rfl (Int.add_zero _).symm
  · rfl

theorem hlinePlan_eq (x0 x1 y : Int) (c : Half) (s : State) :
    hlinePlan x0 x1 y c s =
      let len := lineLength s.cfg.lineLenInclusive x0 x1 Config.panelWidth
      if y < 0 ∨ Config.panelHeight ≤ y ∨ len ≤ 0 then Plan.noOp
      else Plan.run (paintActs s (lineEnds x0 x1 Config.panelWidth).1 y len 1 (repeatHalf c len.toNat)) [] := by
  simp only [hlinePlan, lineSpan_eq, ite_or]

theorem vlinePlan_eq (x y0 y1 : Int) (c : Half) (s : State) :
    vlinePlan x y0 y1 c s =
      let len := lineLength s.cfg.lineLenInclusive y0 y1 Config.panelHeight
      if x < 0 ∨ Config.panelWidth ≤ x ∨ len ≤ 0 then Plan.noOp
      else Plan.run (paintActs s x (lineEnds y0 y1 Config.panelHeight).1 1 len (repeatHalf c len.toNat)) [] := by
  simp only [vlinePlan, lineSpan_eq, ite_or]

theorem blitPlan_none {s : State} {pb : Byte} (hb : s.pixelBuffer pb = none) (sel : Byte) (x y : Int) :
    blitPlan sel x y pb s = Plan.answer (Response.illegal sel) := by
  simp only [blitPlan, hb]

theorem blitPlan_some {s : State} {pb : Byte} {b : PixelBuffer} (hb : s.pixelBuffer pb = some b) (sel : Byte)
    (x y : Int) :
    blitPlan sel x y pb s =
      if u16 b.w = 0 ∨ u16 b.h = 0 ∨ x < 0 ∨ y < 0 ∨ Config.panelWidth ≤ x + u16 b.w ∨
        Config.panelHeight ≤ y + u16 b.h
      then Plan.noOp else Plan.run (paintActs s x y (u16 b.w) (u16 b.h) (pairBytes b.data)) [] := by
  simp only [blitPlan, hb, ← ite_or, or_assoc]

/-- Settles O24: the plan has the form of `draws_or_drops` as it is written. -/
theorem setPixelDrawsOrDrops : Obligations.SetPixelDrawsOrDrops := by
  unfold Obligations.SetPixelDrawsOrDrops
  intro x y c s hr
  exact draws_or_drops (plan := pixelPlan (s16 x) (s16 y) c) rfl hr rfl

/-- Settles O25: the start and the length are those of the ordered endpoints. -/
theorem drawHLineClampsAndDraws : Obligations.DrawHLineClampsAndDraws := by
  unfold Obligations.DrawHLineClampsAndDraws
  intro x0 x1 y c s hr
  exact draws_or_drops rfl hr (hlinePlan_eq (s16 x0) (s16 x1) (s16 y) c s)

/-- Settles O26: as for the horizontal line, on the other axis. -/
theorem drawVLineClampsAndDraws : Obligations.DrawVLineClampsAndDraws := by
  unfold Obligations.DrawVLineClampsAndDraws
  intro x y0 y1 c s hr
  exact draws_or_drops rfl hr (vlinePlan_eq (s16 x) (s16 y0) (s16 y1) c s)

/-- The size after the origin clamp (R160). -/
theorem add_min_zero (n o : Int) : n + min o 0 = if o < 0 then n + o else n := by
  split <;> omega

/-- Settles O27: the rectangle left is that of `rectAxis` on each axis. -/
theorem fillRectClipsAndFills : Obligations.FillRectClipsAndFills := by
  unfold Obligations.FillRectClipsAndFills
  intro x y w h c s hr
  simp only [← add_min_zero]
  exact draws_or_drops rfl hr (fillPlan_eq (s16 x) (s16 y) (s16 w) (s16 h) c s)

/-- Settles O28: a handle below `PBM_NEXT` with a record names that record, one beyond names none. -/
theorem blitDrawsOrRejects : Obligations.BlitDrawsOrRejects := by
  unfold Obligations.BlitDrawsOrRejects
  intro x y pb s hr
  constructor
  · intro unknown
    have missing : s.pixelBuffer pb = none := if_neg (Nat.not_lt.mpr unknown)
    exact exec_ready_answer (i := .blit x y pb) rfl rfl (blitPlan_none missing _ (s16 x) (s16 y)) hr
  · intro b below hb
    have plan := blitPlan_some ((pixelBuffer_of_below below).trans hb) (Instr.blit x y pb).code (s16 x) (s16 y)
    simp only [BitVec.toNat_eq]
    exact draws_or_drops (plan := blitPlan (Instr.blit x y pb).code (s16 x) (s16 y) pb) rfl hr plan

end Sys2Proof.Machine

/-! ### `SET_WINDOW` (R153, R154) -/

namespace Sys2Proof.Machine

theorem exec_setWindow {s : State} (hr : s.Ready .hopD) (x y w h : Half) :
    exec (.setWindow x y w h) s = .next (settleD (Plan.run (windowActs s (s16 x) (s16 y) (s16 w) (s16 h)) []) s) :=
  exec_ready_hopD (i := .setWindow x y w h) rfl rfl hr

theorem runs_setWindow {s : State} (hr : s.Ready .hopD) (x y w h : Half) :
    s.Runs (.setWindow x y w h) (windowEvents s (s16 x) (s16 y) (s16 w) (s16 h))
      (s.windowed (s16 x) (s16 y) (s16 w) (s16 h)) := by
  have runs := runs_of_plan (i := .setWindow x y w h)
    (plan := fun s => Plan.run (windowActs s (s16 x) (s16 y) (s16 w) (s16 h)) []) rfl hr rfl
  rwa [shown_window, applyAll_window] at runs

theorem setWindow_windowFailed {s t : State} {x y w h : Half} {j : Nat} {e : BusErr} {d : FailDraw}
    (hr : s.Ready .hopD) (ht : exec (.setWindow x y w h) s = .next t)
    (hj : j < xferCount (windowEvents s (s16 x) (s16 y) (s16 w) (s16 h))) (hf : s.FirstFailure j e d) :
    s.WindowFailed t (s16 x) (s16 y) (s16 w) (s16 h) j d := by
  rw [exec_setWindow hr] at ht
  cases ht
  rw [← transactions_window, ← List.append_nil (windowActs ..)] at hj
  rw [← List.append_nil (windowActs ..)]
  exact settleD_windowFailed nofun hj hf

/-- Settles O22: the moves are the two halves of `SetWindow` with nothing after them. -/
theorem setWindowSendsTheChangedAxes : Obligations.SetWindowSendsTheChangedAxes := by
  unfold Obligations.SetWindowSendsTheChangedAxes
  intro x y w h s hr xs xe ys ye colEvs rowEvs
  refine ⟨runs_setWindow hr x y w h, ⟨rfl, rfl, rfl, rfl, rfl⟩, fun j e d t hj hok hf ht => ?_⟩
  obtain ⟨cols, rows⟩ :
      (t.colStart, t.colEnd) = (if j < xferCount colEvs ∧ d.cacheNew = false then (s.colStart, s.colEnd)
        else (xs, xe)) ∧
      (t.rowStart, t.rowEnd) = (if j < xferCount colEvs ∨ (j < xferCount colEvs + xferCount rowEvs ∧
        d.cacheNew = false) then (s.rowStart, s.rowEnd) else (ys, ye)) :=
    setWindow_windowFailed hr ht hj ⟨hok, hf⟩
  have drawn (old new : Half × Half) :
      (if d.cacheNew = false then old else new) = if d.cacheNew then new else old := by
    cases d.cacheNew <;> rfl
  split
  case isTrue hcol =>
    simp only [hcol, true_and, true_or, if_true] at cols rows
    exact ⟨cols.trans (drawn ..), rows⟩
  case isFalse hcol =>
    rw [xferCount_append] at hj
    simp only [hcol, hj, false_and, true_and, false_or, if_false] at cols rows
    exact ⟨cols, rows.trans (drawn ..)⟩

theorem windowEvents_of_columns_differ {s : State} {x y w h : Int}
    (hc : (trunc16 x, trunc16 (x + w - 1)) ≠ (s.colStart, s.colEnd))
    (hr : (trunc16 y, trunc16 (y + h - 1)) = (s.rowStart, s.rowEnd)) :
    windowEvents s x y w h =
      frameEvents s.cfg.bufCap Config.opColumnSet (halfBytes (trunc16 x) ++ halfBytes (trunc16 (x + w - 1))) := by
  rw [windowEvents, columnEvents, if_neg hc, rowEvents_eq_nil.mpr hr, List.append_nil]

theorem windowEvents_of_rows_differ {s : State} {x y w h : Int}
    (hc : (trunc16 x, trunc16 (x + w - 1)) = (s.colStart, s.colEnd))
    (hr : (trunc16 y, trunc16 (y + h - 1)) ≠ (s.rowStart, s.rowEnd)) :
    windowEvents s x y w h =
      frameEvents s.cfg.bufCap Config.opRowSet (halfBytes (trunc16 y) ++ halfBytes (trunc16 (y + h - 1))) := by
  rw [windowEvents, columnEvents_eq_nil.mpr hc, rowEvents, if_neg hr, List.nil_append]

/-- Settles O23: the first window is cached, so an axis is sent again just where its range is another. -/
theorem sameWindowTwiceIsACacheHit : Obligations.SameWindowTwiceIsACacheHit := by
  unfold Obligations.SameWindowTwiceIsACacheHit
  intro x y w h x' w' y' h' s t hr hok ht
  obtain ⟨ready, cfg, cols, rows⟩ : t.Ready .hopD ∧ t.cfg = s.cfg ∧
      (trunc16 (s16 x), trunc16 (s16 x + s16 w - 1)) = (t.colStart, t.colEnd) ∧
      (trunc16 (s16 y), trunc16 (s16 y + s16 h - 1)) = (t.rowStart, t.rowEnd) := by
    cases ht.symm.trans ((runs_setWindow hr x y w h).1 hok)
    exact ⟨respondD_ready hr.1 hr.2.2 (Response.done []), rfl, rfl, rfl⟩
  refine ⟨?_, fun hc => ?_, fun hc => ?_⟩
  · have hit : windowActs t (s16 x) (s16 y) (s16 w) (s16 h) = [] := by
      rw [windowActs, columnActs, rowActs, if_pos cols, if_pos rows, List.append_nil]
    rw [exec_setWindow ready, hit]
    rfl
  · have runs := runs_setWindow ready x' y w' h
    rwa [windowEvents_of_columns_differ (cols ▸ hc) rows, cfg] at runs
  · have runs := runs_setWindow ready x y' w h'
    rwa [windowEvents_of_rows_differ cols (rows ▸ hc), cfg] at runs

end Sys2Proof.Machine

/-! ### `RESET`, `INIT` and `SIZE` (R163 to R165) -/

namespace Sys2Proof.Machine

/-- Settles O31: the plan is that reply. -/
theorem sizeRepliesThePanel : Obligations.SizeRepliesThePanel := by
  unfold Obligations.SizeRepliesThePanel
  intro s hr
  exact exec_ready_answer (i := .size) rfl rfl rfl hr

theorem applyAll_wait (ms : Nat) (s : State) : applyAll [.wait ms] s = s.shows [.wait ms] [] := by
  simp [Act.apply, waitOp, State.shows, levelAfter, stageAll, xferCount]

theorem applyAll_resetPulse (s : State) :
    applyAll [.drive .rst false, .wait Config.tRstHold, .drive .rst true, .wait Config.tRstSettle] s =
      s.shows [.drive .rst false, .wait Config.tRstHold, .drive .rst true, .wait Config.tRstSettle] [] := by
  simp [Act.apply, driveOp, waitOp, State.shows, levelAfter, stageAll, xferCount]

/-- Settles O29: the pulse makes no transaction, so no answer of the bus is needed; the command is one frame. -/
theorem resetPulsesOrCommands : Obligations.ResetPulsesOrCommands := by
  unfold Obligations.ResetPulsesOrCommands
  intro s hr
  have runs := runs_of_plan (i := .reset) (plan := fun s => Plan.run (resetActs s.cfg) []) rfl hr rfl
  split
  case isTrue line =>
    rw [resetActs, if_pos line, applyAll_resetPulse] at runs
    exact runs.1 nofun
  case isFalse line =>
    rw [resetActs, if_neg line, shown_append, shown_sendCommand, applyAll_append, applyAll_sendCommand, applyAll_wait,
      filled_shows, shows_shows] at runs
    exact runs

/-- Settles O30: the moves are the frames of the sequence, each of which shows its own events. -/
theorem initSendsTheSequence : Obligations.InitSendsTheSequence := by
  unfold Obligations.InitSendsTheSequence
  intro s hr f ch evs
  have runs := runs_of_plan (i := .init) (plan := fun s => Plan.run (initActs s.cfg) []) rfl hr rfl
  simp only [initActs, shown_append, shown_sendCommand, applyAll_append, applyAll_sendCommand, applyAll_wait,
      filled_shows, shows_shows, filled_filled, chunks_nil, List.append_nil] at runs
  exact runs

end Sys2Proof.Machine

/-! ### The levels of `SEL` and `DC` after an operation (R151) -/

namespace Sys2Proof.Machine

/-- What a primitive shows, drawn or dropped. -/
theorem shown_ite_paint {drawn dropped : Prop} [Decidable drawn] [Decidable dropped] (hd : drawn ↔ ¬ dropped)
    (s : State) (x y w h : Int) (bytes : List Byte) :
    shown (if dropped then Plan.noOp else Plan.run (paintActs s x y w h bytes) []).acts =
      if drawn then paintEvents s x y w h bytes else [] := by
  by_cases drop : dropped
  · rw [if_pos drop, if_neg fun h => hd.mp h drop]
    rfl
  · rw [if_neg drop, if_pos (hd.mpr drop)]
    exact shown_paint ..

theorem shown_pixelPlan (x y c : Half) (s : State) :
    shown (pixelPlan (s16 x) (s16 y) c s).acts = opEvents (.setPixel x y c) s :=
  shown_ite_paint (by simp only [OnPanel]; omega) ..

theorem shown_hlinePlan (x0 x1 y c : Half) (s : State) :
    shown (hlinePlan (s16 x0) (s16 x1) (s16 y) c s).acts = opEvents (.drawHLine x0 x1 y c) s := by
  rw [hlinePlan_eq]
  exact shown_ite_paint (by omega) ..

theorem shown_vlinePlan (x y0 y1 c : Half) (s : State) :
    shown (vlinePlan (s16 x) (s16 y0) (s16 y1) c s).acts = opEvents (.drawVLine x y0 y1 c) s := by
  rw [vlinePlan_eq]
  exact shown_ite_paint (by omega) ..

theorem shown_fillPlan (x y w h c : Half) (s : State) :
    shown (fillPlan (s16 x) (s16 y) (s16 w) (s16 h) c s).acts = opEvents (.fillRect x y w h c) s := by
  rw [fillPlan_eq, opEvents_fillRect]
  exact shown_ite_paint (by rw [not_or, not_le, not_le]; rfl) ..

theorem opEvents_blit_none {s : State} {pb : Byte} (hb : s.pixelBuffer pb = none) (x y : Half) :
    opEvents (.blit x y pb) s = [] := by
  change (match s.pixelBuffer pb with | some b => _ | none => []) = []
  rw [hb]

theorem opEvents_blit_some {s : State} {pb : Byte} {b : PixelBuffer} (hb : s.pixelBuffer pb = some b) (x y : Half) :
    opEvents (.blit x y pb) s = if BlitFits (s16 x) (s16 y) b
      then paintEvents s (s16 x) (s16 y) (u16 b.w) (u16 b.h) (pairBytes b.data) else [] := by
  change (match s.pixelBuffer pb with | some b => _ | none => []) = _
  rw [hb]

theorem shown_blitPlan (sel : Byte) (x y : Half) (pb : Byte) (s : State) :
    shown (blitPlan sel (s16 x) (s16 y) pb s).acts = opEvents (.blit x y pb) s := by
  cases hb : s.pixelBuffer pb with
  | none =>
    rw [blitPlan_none hb, opEvents_blit_none hb]
    rfl
  | some b =>
    rw [blitPlan_some hb, opEvents_blit_some hb]
    exact shown_ite_paint (by simp only [not_or, not_lt, not_le]) ..

theorem shown_initActs (s : State) : shown (initActs s.cfg) = opEvents .init s := by
  simp only [initActs, shown_append, shown_sendCommand]
  rfl

/-- What an operation of the engine shows, if no transaction fails, is `opEvents` of it. -/
theorem shown_hostPlan {i : Instr} (hi : OfEngine i) (s : State) : shown (hostPlan i s).acts = opEvents i s := by
  cases i with
  | setWindow => exact shown_window ..
  | setPixel => exact shown_pixelPlan ..
  | drawHLine => exact shown_hlinePlan ..
  | drawVLine => exact shown_vlinePlan ..
  | fillRect => exact shown_fillPlan ..
  | blit => exact shown_blitPlan ..
  | reset => exact shown_reset s.cfg
  | init => exact shown_initActs s
  | size => rfl
  | _ => exact hi.elim

/-- Whatever the pins were, after these events `SEL = 1` and `DC = 1`. -/
structure Deselects (evs : List DispEvent) : Prop where
  sel : ∀ level, levelAfter .sel evs level = true
  dc : ∀ level, levelAfter .dc evs level = true

theorem deselects_append (as : List DispEvent) {bs : List DispEvent} (h : Deselects bs) : Deselects (as ++ bs) where
  sel _ := (levelAfter_append ..).trans (h.sel _)
  dc _ := (levelAfter_append ..).trans (h.dc _)

theorem deselects_append_wait {evs : List DispEvent} (h : Deselects evs) (ms : Nat) :
    Deselects (evs ++ [.wait ms]) where
  sel _ := (levelAfter_append ..).trans (h.sel _)
  dc _ := (levelAfter_append ..).trans (h.dc _)

/-- A command frame ends in data mode, deselected (R150). -/
theorem deselects_frame (cap : Nat) (op : Byte) (data : List Byte) : Deselects (frameEvents cap op data) where
  sel _ := by rw [frameEvents, levelAfter_append]; rfl
  dc _ := by rw [frameEvents, levelAfter_append, levelAfter_append, levelAfter_xfers]; rfl

/-- The stream's own bracket follows a frame and leaves data mode alone (R152). -/
theorem deselects_memWrite (cap : Nat) (bytes : List Byte) : Deselects (memWriteEvents cap bytes) where
  sel _ := by rw [memWriteEvents, levelAfter_append]; rfl
  dc _ := by
    rw [memWriteEvents, levelAfter_append, levelAfter_append, levelAfter_xfers, levelAfter_append,
      (deselects_frame ..).dc]
    rfl

theorem deselects_paint (s : State) (x y w h : Int) (bytes : List Byte) : Deselects (paintEvents s x y w h bytes) :=
  deselects_append _ (deselects_memWrite ..)

/-- `SetWindow` ends with the frame of the last axis that differs, if one does. -/
theorem deselects_window {s : State} {x y w h : Int} (hw : windowEvents s x y w h ≠ []) :
    Deselects (windowEvents s x y w h) := by
  rw [windowEvents] at hw ⊢
  by_cases row : rowEvents s (trunc16 y) (trunc16 (y + h - 1)) = []
  · rw [row, List.append_nil] at hw ⊢
    rw [columnEvents_of_ne_nil hw]
    exact deselects_frame ..
  · rw [rowEvents_of_ne_nil row]
    exact deselects_append _ (deselects_frame ..)

/-- An operation of the engine makes no transaction, or ends deselected in data mode (R151). -/
theorem opEvents_deselects {i : Instr} (hi : OfEngine i) (s : State) :
    (∀ bs, .xfer bs ∉ opEvents i s) ∨ Deselects (opEvents i s) := by
  by_cases hd : Draws i
  · rw [← shown_hostPlan hi]
    rcases hostPlan_paints hd s with still | ⟨x, y, w, h, bytes, paint⟩
    · rw [still]
      exact .inl nofun
    · rw [paint, shown_paint]
      exact .inr (deselects_paint ..)
  · cases i with
    | setWindow x y w h =>
      by_cases cached : opEvents (.setWindow x y w h) s = []
      · rw [cached]
        exact .inl nofun
      · exact .inr (deselects_window cached)
    | reset =>
      have events : opEvents .reset s = shown (resetActs s.cfg) := (shown_hostPlan (i := .reset) trivial s).symm
      rw [events, shown_reset]
      split
      · exact .inl nofun
      · exact .inr (deselects_append_wait (deselects_frame ..) _)
    | init => exact .inr (deselects_append _ (deselects_frame ..))
    | size => exact .inl nofun
    | _ => exact (hd hi).elim

/-- Settles O32: the pins are as the events shown leave them, and events with a transaction among them end deselected in
data mode. -/
theorem framesEndDeselectedInDataMode : Obligations.FramesEndDeselectedInDataMode := by
  unfold Obligations.FramesEndDeselectedInDataMode
  intro i s t hr hok ht hi
  obtain ⟨hf, ha, engine⟩ : i.format = .hostReq ∧ acceptedOn i .hopD = true ∧ OfEngine i := by
    rcases hi with ⟨x, y, w, h, rfl⟩ | ⟨x, y, c, rfl⟩ | ⟨a, b, y, c, rfl⟩ | ⟨x, a, b, c, rfl⟩ |
      ⟨x, y, w, h, c, rfl⟩ | ⟨x, y, pb, rfl⟩ | rfl | rfl | rfl <;> exact ⟨rfl, rfl, trivial⟩
  rw [← shown_hostPlan engine, xferCount_shown] at hok
  rw [exec_ready_hopD hf ha hr, settleD_ok hok] at ht
  cases ht
  obtain ⟨sel, dc⟩ := applyAll_level (hostPlan i s).acts s
  rw [shown_hostPlan engine] at sel dc
  rw [respondD_sel, respondD_dc, sel, dc]
  refine ⟨fun ⟨bs, hb⟩ => ?_, fun silent => by rw [silent]; exact ⟨rfl, rfl⟩⟩
  have ends := (opEvents_deselects engine s).resolve_left fun quiet => quiet bs hb
  exact ⟨ends.sel _, ends.dc _⟩

end Sys2Proof.Machine

/-! ### The window stays on the panel (R169)

A primitive paints a window on the panel, and after a failure each cached pair is the old one or that window's. -/

namespace Sys2Proof.Machine

/-- A range of `n` pixels from `o` on lies on the panel's axis. -/
structure SpanInside (o n dim : Int) : Prop where
  first : 0 ≤ o
  nonempty : 0 < n
  last : o + n ≤ dim

theorem SpanInside.range {o n dim : Int} (h : SpanInside o n dim) (hd : dim ≤ 65536) :
    rangeInside (trunc16 o) (trunc16 (o + n - 1)) dim := by
  obtain ⟨first, nonempty, last⟩ := h
  rw [rangeInside, trunc16_toNat first (by omega), trunc16_toNat (by omega) (by omega)]
  omega

theorem windowInside_of_window {s t : State} (h : t.window = s.window) (hs : s.WindowInside) : t.WindowInside := by
  simp only [State.window, Prod.mk.injEq] at h
  obtain ⟨colStart, colEnd, rowStart, rowEnd⟩ := h
  rw [State.WindowInside, colStart, colEnd, rowStart, rowEnd]
  exact hs

theorem rangeInside_of_ite {p q r : Half × Half} {c : Prop} [Decidable c] {dim : Int} (h : p = if c then q else r)
    (hq : rangeInside q.1 q.2 dim) (hr : rangeInside r.1 r.2 dim) : rangeInside p.1 p.2 dim := by
  rw [h]
  split
  · exact hq
  · exact hr

section
variable {s : State} {x y w h : Int} {bytes : List Byte}

/-- A failure leaves each pair old or new, so both inside if the window set is (R239 (b)). -/
theorem State.WindowFailed.inside {t : State} {j : Nat} {d : FailDraw} (hf : s.WindowFailed t x y w h j d)
    (hs : s.WindowInside) (hx : SpanInside x w Config.panelWidth) (hy : SpanInside y h Config.panelHeight) :
    t.WindowInside :=
  ⟨rangeInside_of_ite hf.1 hs.1 (hx.range (by decide)), rangeInside_of_ite hf.2 hs.2 (hy.range (by decide))⟩

theorem settleD_paint_inside (hs : s.WindowInside) (hx : SpanInside x w Config.panelWidth)
    (hy : SpanInside y h Config.panelHeight) :
    (settleD (Plan.run (paintActs s x y w h bytes) []) s).WindowInside := by
  rcases busOk_or_fails s (transactions (paintActs s x y w h bytes)) with ok | ⟨j, e, d, hj, ok, fail⟩
  · rw [settleD_ok ok]
    show (applyAll (paintActs s x y w h bytes) s).WindowInside
    rw [applyAll_paint]
    exact ⟨hx.range (by decide), hy.range (by decide)⟩
  · exact (settleD_paint_windowFailed hj ⟨ok, fail⟩).inside hs hx hy

end

/-- The plan makes no move, or paints a window on the panel. -/
def Plan.PaintsInside (plan : Plan) (s : State) : Prop :=
  plan.acts = [] ∨ ∃ x y w h bytes, SpanInside x w Config.panelWidth ∧ SpanInside y h Config.panelHeight ∧
    plan = Plan.run (paintActs s x y w h bytes) []

theorem settleD_inside {plan : Plan} {s : State} (hp : plan.PaintsInside s) (hs : s.WindowInside) :
    (settleD plan s).WindowInside := by
  rcases hp with still | ⟨x, y, w, h, bytes, hx, hy, rfl⟩
  · rw [settleD_eq, still]
    exact hs
  · exact settleD_paint_inside hs hx hy

theorem paintsInside_ite {dropped : Prop} [Decidable dropped] {s : State} {x y w h : Int} {bytes : List Byte}
    (hi : ¬ dropped → SpanInside x w Config.panelWidth ∧ SpanInside y h Config.panelHeight) :
    (if dropped then Plan.noOp else Plan.run (paintActs s x y w h bytes) []).PaintsInside s := by
  split
  case isTrue => exact .inl rfl
  case isFalse drawn => exact .inr ⟨x, y, w, h, bytes, (hi drawn).1, (hi drawn).2, rfl⟩

theorem spanInside_one {o dim : Int} (h : 0 ≤ o ∧ o < dim) : SpanInside o 1 dim := ⟨h.1, Int.one_pos, h.2⟩

theorem spanInside_line {inclusive : Bool} {p q dim : Int} (hd : 0 < dim) (hl : 0 < lineLength inclusive p q dim) :
    SpanInside (lineEnds p q dim).1 (lineLength inclusive p q dim) dim := by
  have first : 0 ≤ (lineEnds p q dim).1 := by
    simp only [lineEnds, clamp]
    omega
  have last : (lineEnds p q dim).2 < dim := by
    simp only [lineEnds, clamp]
    omega
  refine ⟨first, hl, ?_⟩
  simp only [lineLength]
  split <;> omega

theorem pixelPlan_paintsInside (x y : Int) (c : Half) (s : State) : (pixelPlan x y c s).PaintsInside s := by
  refine paintsInside_ite fun drawn => ?_
  simp only [not_or, not_lt, not_le] at drawn
  obtain ⟨left, right, top, bottom⟩ := drawn
  exact ⟨spanInside_one ⟨left, right⟩, spanInside_one ⟨top, bottom⟩⟩

theorem hlinePlan_paintsInside (x0 x1 y : Int) (c : Half) (s : State) : (hlinePlan x0 x1 y c s).PaintsInside s := by
  rw [hlinePlan_eq]
  refine paintsInside_ite fun drawn => ?_
  simp only [not_or, not_lt, not_le] at drawn
  obtain ⟨top, bottom, len⟩ := drawn
  exact ⟨spanInside_line (by decide) len, spanInside_one ⟨top, bottom⟩⟩

theorem vlinePlan_paintsInside (x y0 y1 : Int) (c : Half) (s : State) : (vlinePlan x y0 y1 c s).PaintsInside s := by
  rw [vlinePlan_eq]
  refine paintsInside_ite fun drawn => ?_
  simp only [not_or, not_lt, not_le] at drawn
  obtain ⟨left, right, len⟩ := drawn
  exact ⟨spanInside_one ⟨left, right⟩, spanInside_line (by decide) len⟩

/-- Only a rectangle needs the far clip to stay on the panel. -/
theorem fillPlan_paintsInside (x y w h : Int) (c : Half) {s : State} (hfar : s.cfg.rectClipFar = true) :
    (fillPlan x y w h c s).PaintsInside s := by
  rw [fillPlan_eq, hfar]
  refine paintsInside_ite fun drawn => ?_
  simp only [not_or, not_le] at drawn
  obtain ⟨wide, high⟩ := drawn
  obtain ⟨left, right⟩ := rectAxis_inside x w Config.panelWidth
  obtain ⟨top, bottom⟩ := rectAxis_inside y h Config.panelHeight
  exact ⟨⟨left, wide, right⟩, ⟨top, high, bottom⟩⟩

theorem blitPlan_paintsInside (sel : Byte) (x y : Int) (pb : Byte) (s : State) :
    (blitPlan sel x y pb s).PaintsInside s := by
  cases hb : s.pixelBuffer pb with
  | none => exact .inl (congrArg Plan.acts (blitPlan_none hb sel x y))
  | some b =>
    rw [blitPlan_some hb]
    refine paintsInside_ite fun drawn => ?_
    simp only [not_or, not_lt, not_le] at drawn
    obtain ⟨wide, high, left, top, right, bottom⟩ := drawn
    exact ⟨⟨left, by omega, right.le⟩, ⟨top, by omega, bottom.le⟩⟩

theorem hostPlan_paintsInside {i : Instr} (hd : Draws i) {s : State} (hfar : s.cfg.rectClipFar = true) :
    (hostPlan i s).PaintsInside s := by
  cases i with
  | setPixel => exact pixelPlan_paintsInside ..
  | drawHLine => exact hlinePlan_paintsInside ..
  | drawVLine => exact vlinePlan_paintsInside ..
  | fillRect => exact fillPlan_paintsInside _ _ _ _ _ hfar
  | blit => exact blitPlan_paintsInside ..
  | _ => exact hd.elim

theorem format_of_draws {i : Instr} (hd : Draws i) : i.format = .hostReq := by
  cases i with
  | setPixel | drawHLine | drawVLine | fillRect | blit => rfl
  | _ => exact hd.elim

/-- Settles O35: a primitive makes no move or paints on the panel; of the others only `SET_WINDOW` writes the cache. -/
theorem primitivesKeepTheWindowInside : Obligations.PrimitivesKeepTheWindowInside := by
  unfold Obligations.PrimitivesKeepTheWindowInside
  intro i s t hg hfar hs hset ht
  by_cases hd : Draws i
  · rcases exec_host_cases (format_of_draws hd) ht with ⟨-, rfl⟩ | ⟨-, rfl⟩ | ⟨he, -⟩
    · rcases acceptedPlan_cases i s with plan | ⟨r, plan⟩ <;> rw [plan]
      · exact settleD_inside (hostPlan_paintsInside hd hfar) hs
      · exact settleD_inside (.inl rfl) hs
    · exact windowInside_of_window (congrArg State.window (settleK_withoutK (acceptedPlan i s) s) :) hs
    · cases hg.symm.trans he
  · obtain ⟨colStart, colEnd, rowStart, rowEnd⟩ := onlySetWindowWritesTheCache i s t ht hset
      (fun _ _ _ h => hd (h ▸ trivial)) (fun _ _ _ _ h => hd (h ▸ trivial)) (fun _ _ _ _ h => hd (h ▸ trivial))
      (fun _ _ _ _ _ h => hd (h ▸ trivial)) (fun _ _ _ h => hd (h ▸ trivial)) hg
    rw [State.WindowInside, colStart, colEnd, rowStart, rowEnd]
    exact hs

end Sys2Proof.Machine

/-! ### The keyboard event decoder (R191, R192, R194)

A poll is one transaction and its answer's classification. Its response is given in the state that the classification
leaves, so each row of the table is one case of the latch that `setLatch` chooses. -/

namespace Sys2Proof.Machine

/-! #### `KBD_POLL` -/

theorem exec_ready_hopK {i : Instr} {s : State} (hf : i.format = .hostReq) (ha : acceptedOn i .hopK = true)
    (h : s.Ready .hopK) : exec i s = .next (settleK (hostPlan i s) s) := by
  rw [exec_host hf, acceptedPlan_of_accepted (h.1.symm ▸ ha), runHost_hopK h]

/-- The poll's response, given in the state that the poll leaves. -/
theorem exec_kbdPoll_ready {s : State} (h : s.Ready .hopK) :
    exec .kbdPoll s = .next (respondK (pollKeyboard s).2 (pollKeyboard s).1) :=
  exec_ready_hopK rfl rfl h

theorem respondK_setLatch (r : Response) (level : Bool) (key : Byte) (s : State) :
    respondK r (setLatch level key s) =
      if key = Config.keyAlt then respondK r { s with altDown := level }
      else if key = s.cfg.keyCtrl then respondK r { s with ctrlDown := level }
      else respondK r s := by
  rw [setLatch, apply_ite (respondK r), apply_ite (respondK r)]

/-- A key-down: Alt and Control are reported as 0, any other key as itself. -/
theorem respondK_keyDown (key : Byte) (s : State) :
    respondK (keyDown key s).2 (keyDown key s).1 =
      if key = Config.keyAlt then respondK (Response.done [0#8]) { s with altDown := true }
      else if key = s.cfg.keyCtrl then respondK (Response.done [0#8]) { s with ctrlDown := true }
      else respondK (Response.done [key]) s := by
  by_cases hm : s.isModifier key = true
  · rw [keyDown_modifier hm, respondK_setLatch]
    rcases (isModifier_iff s key).mp hm with h | h <;> simp only [h, if_true]
  · obtain ⟨alt, ctrl⟩ := not_or.mp (mt (isModifier_iff s key).mpr hm)
    rw [keyDown_other hm, if_neg alt, if_neg ctrl]

theorem tag_ge_four_of_wf {tag key : Byte} (hw : (Instr.kbdRspInvalid tag key).wf = true) : 4 ≤ tag.toNat := by
  simp only [Instr.wf, Config.tagNone, Config.tagDown, Config.tagHeld, Config.tagUp, Bool.and_eq_true, bne_iff_ne] at hw
  bv_omega

/-- Settles O40: the answer decides what is classified, and the tag the row of the table. -/
theorem kbdPollClassifies : Obligations.KbdPollClassifies := by
  unfold Obligations.KbdPollClassifies
  intro s hr polled
  rw [exec_kbdPoll_ready hr]
  refine ⟨fun e h => ⟨?_, rfl⟩, fun tag key h => ⟨?_, rfl⟩⟩
  · rw [pollKeyboard_of_fail h]
    rfl
  · rw [pollKeyboard_of_bytes h]
    refine congrArg Host.Outcome.next ?_
    unfold classify
    rcases kbdTag_cases tag with ⟨rfl, ht⟩ | ⟨rfl, ht⟩ | ⟨rfl, ht⟩ | ⟨rfl, ht⟩ | ⟨hw, ht⟩ <;>
      rw [ht]
    · rfl
    · exact respondK_keyDown key polled
    · exact respondK_setLatch _ true key polled
    · exact respondK_setLatch _ false key polled
    · have high : 4 ≤ tag.toNat := tag_ge_four_of_wf (hw key)
      rw [if_neg (by omega), if_neg (by omega), if_neg (by omega), if_neg (by omega)]
      rfl

/-! #### `KBD_LATCH` -/

theorem latchByte_eq_sum (alt ctrl : Bool) :
    latchByte alt ctrl = BitVec.ofNat 8 ((if alt then 1 else 0) + (if ctrl then 2 else 0)) := by
  revert alt ctrl
  decide

/-- Settles O41: the operation only replies, and its byte is the latches' sum. -/
theorem kbdLatchRepliesTheLatches : Obligations.KbdLatchRepliesTheLatches := by
  unfold Obligations.KbdLatchRepliesTheLatches
  intro s hr
  rw [← latchByte_eq_sum]
  exact exec_ready_answer rfl rfl rfl hr

end Sys2Proof.Machine

/-! ### The pixel buffer memory (R210 to R215)

An operation on a buffer asks for its handle, then for its pixel, and makes at most one write.
-/

namespace Sys2Proof.Machine

/-- Settles O43: by the invariant `PBM_NEXT` never passes the slots (R57), so none is left just where it equals them. -/
theorem pbCreateAllocatesOrRefuses : Obligations.PbCreateAllocatesOrRefuses := by
  unfold Obligations.PbCreateAllocatesOrRefuses
  intro w h s hr hs
  split
  case isTrue full =>
    have plan : hostPlan (.pbCreate w h) s = Plan.answer Response.full := if_pos (full.imp_left Eq.ge)
    exact exec_ready_answer rfl rfl plan hr
  case isFalse room =>
    have plan : hostPlan (.pbCreate w h) s = Plan.run [.pbNew w h] [BitVec.ofNat 8 s.pbmNext] :=
      if_neg (mt (Or.imp_left hs.slotsBound.antisymm) room)
    rw [exec_ready_hopD rfl rfl hr, plan, settleD_single rfl]
    rfl

/-! #### The handle -/

section
variable {s : State} {pb : Byte} {b : PixelBuffer} {x y : Half}

theorem withBuffer_unknown (h : s.pbmNext ≤ pb.toNat) (sel : Byte) (plan : PixelBuffer → Plan) :
    withBuffer sel pb s plan = Plan.answer (Response.illegal sel) := by
  simp only [withBuffer, State.pixelBuffer, if_neg (Nat.not_lt.mpr h)]

/-- An operation on a handle that names no buffer replies `ILLEGAL_OP` with its own selector (R210). -/
theorem exec_unknown_handle {i : Instr} {plan : PixelBuffer → Plan} (hf : i.format = .hostReq)
    (ha : acceptedOn i .hopD = true) (hp : hostPlan i s = withBuffer i.code pb s plan) (hr : s.Ready .hopD)
    (h : s.pbmNext ≤ pb.toNat) : exec i s = .next (respondD (Response.illegal i.code) s) :=
  exec_ready_answer hf ha (hp.trans (withBuffer_unknown h ..)) hr

/-- A change made to the record of a handle puts the changed record in its place. -/
theorem pbs_modify {k : Nat} (hb : s.pbs[k]? = some b) (f : PixelBuffer → PixelBuffer) :
    s.pbs.modify k f = s.pbs.set k (f b) := by
  rw [List.modify_eq_set_getElem?, hb]
  rfl

/-! #### The pixel -/

theorem inside_of_not_outside
    (h : ¬ (x.toInt < 0 ∨ (b.w.toNat : Int) ≤ x.toInt ∨ y.toInt < 0 ∨ (b.h.toNat : Int) ≤ y.toInt)) :
    b.Inside x y := by
  simp only [PixelBuffer.Inside]
  omega

theorem index?_of_outside
    (h : x.toInt < 0 ∨ (b.w.toNat : Int) ≤ x.toInt ∨ y.toInt < 0 ∨ (b.h.toNat : Int) ≤ y.toInt) :
    b.index? (s16 x) (s16 y) = none := if_pos h

/-- The index of a pixel inside, in exact arithmetic (R56). -/
theorem index_eq_toNat (h : b.Inside x y) : b.index x y = (y.toInt * b.w.toNat + x.toInt).toNat := by
  obtain ⟨hx, -, hy, -⟩ := h
  rw [Int.toNat_add (Int.mul_nonneg hy (Int.natCast_nonneg _)) hx, Int.toNat_mul hy (Int.natCast_nonneg _),
    Int.toNat_natCast]
  rfl

/-- A buffer holds a word for every pixel inside (R29). -/
theorem getElem?_index_of_inside (hs : s.Inv) (hb : b ∈ s.pbs) (h : b.Inside x y) :
    b.data[b.index x y]? = some (b.word (b.index x y)) := by
  have size : b.index x y < b.data.length := (index_lt_words h).trans_eq (hs.pbWords b hb).symm
  rw [PixelBuffer.word, List.getD_eq_getElem _ _ size, List.getElem?_eq_getElem size]

theorem exec_pbSet_outside (hr : s.Ready .hopD) (hb : s.pixelBuffer pb = some b)
    (h : b.index? (s16 x) (s16 y) = none) (c : Half) :
    exec (.pbSet pb x y c) s = .next (respondD (Response.done []) s) := by
  have plan : hostPlan (.pbSet pb x y c) s = setPlan pb (s16 x) (s16 y) c b := withBuffer_some hb ..
  rw [setPlan, h] at plan
  exact exec_ready_answer rfl rfl plan hr

theorem exec_pbGet_outside (hr : s.Ready .hopD) (hb : s.pixelBuffer pb = some b)
    (h : b.index? (s16 x) (s16 y) = none) :
    exec (.pbGet pb x y) s = .next (respondD (Response.illegal 0x43#8) s) := by
  have plan : hostPlan (.pbGet pb x y) s = getPlan 0x43#8 (s16 x) (s16 y) b := withBuffer_some hb ..
  rw [getPlan, h] at plan
  exact exec_ready_answer rfl rfl plan hr

end

/-! #### The operations on a buffer -/

/-- Settles O44: a pixel inside has one word, which the one move writes. -/
theorem pbSetWritesOneWord : Obligations.PbSetWritesOneWord := by
  unfold Obligations.PbSetWritesOneWord
  intro pb x y c s hr
  refine ⟨exec_unknown_handle rfl rfl rfl hr, fun b below hb => ?_⟩
  have buffer : s.pixelBuffer pb = some b := (pixelBuffer_of_below below).trans hb
  split
  case isTrue outside => exact exec_pbSet_outside hr buffer (index?_of_outside outside) c
  case isFalse h =>
    have inside := inside_of_not_outside h
    rw [exec_pbSet_inside hr buffer inside, ← index_eq_toNat inside, pbWriteOp, pbs_modify hb]
    rfl

/-- Settles O45: the words written are all there are, `PB_W * PB_H` by the invariant (R29). -/
theorem pbFillWritesEveryWord : Obligations.PbFillWritesEveryWord := by
  unfold Obligations.PbFillWritesEveryWord
  intro pb c s hr hs
  refine ⟨exec_unknown_handle rfl rfl rfl hr, fun b below hb => ?_⟩
  have buffer : s.pixelBuffer pb = some b := (pixelBuffer_of_below below).trans hb
  have plan : hostPlan (.pbFill pb c) s = Plan.run [.pbFillAll pb c] [] := withBuffer_some buffer ..
  have words : b.data.map (fun _ => c) = List.replicate b.words c := by
    rw [List.map_const', hs.pbWords b (List.mem_of_getElem? hb)]
  rw [exec_ready_hopD rfl rfl hr, plan, settleD_single rfl, Act.apply, pbFillOp, pbs_modify hb, words]
  rfl

/-- Settles O46: the word of a pixel inside is there by the invariant (R29). -/
theorem pbGetRepliesTheWord : Obligations.PbGetRepliesTheWord := by
  unfold Obligations.PbGetRepliesTheWord
  intro pb x y s hr hs
  refine ⟨exec_unknown_handle rfl rfl rfl hr, fun b below hb => ?_⟩
  have buffer : s.pixelBuffer pb = some b := (pixelBuffer_of_below below).trans hb
  split
  case isTrue outside => exact exec_pbGet_outside hr buffer (index?_of_outside outside)
  case isFalse h =>
    have inside := inside_of_not_outside h
    rw [← index_eq_toNat inside]
    exact ⟨_, getElem?_index_of_inside hs (List.mem_of_getElem? hb) inside, exec_pbGet_inside hr buffer inside⟩

/-- Settles O47: the plan of a known handle only replies, from its record. -/
theorem pbSizeRepliesTheSize : Obligations.PbSizeRepliesTheSize := by
  unfold Obligations.PbSizeRepliesTheSize
  intro pb s hr
  refine ⟨exec_unknown_handle rfl rfl rfl hr, fun b below hb => ?_⟩
  have buffer : s.pixelBuffer pb = some b := (pixelBuffer_of_below below).trans hb
  exact exec_ready_answer (i := .pbSize pb) rfl rfl (withBuffer_some buffer ..) hr

end Sys2Proof.Machine
